-- ==== Sys2Proof/Word.lean ====
section
/-! DEFINITION. The widths the spec names: bytes, 32-bit words, the 64-bit counter, command words (00_scope R1 to R8). -/

namespace Sys2Proof

/-- A byte: 8 bits (00_scope section 5). -/
abbrev Byte := BitVec 8

/-- A word: 32 bits (00_scope section 5). `+` on it is the spec's `+32`. -/
abbrev Word := BitVec 32

/-- A 64-bit value (R4). `+` on it is the spec's `+64`. -/
abbrev Dword := BitVec 64

/-- A command word: 16 bits (R8, R61). -/
abbrev CmdWord := BitVec 16

/-- The eight state words (R1, R10). -/
abbrev StateWords := Vector Word 8

/-- A 64-byte block (R2, R11). -/
abbrev Block := Vector Byte 64

/-- The 32-byte digest (R6, R16). -/
abbrev Digest := Vector Byte 32

end Sys2Proof
end

