-- ==== Sys2Proof/Syntax.lean ====
section
/-! DEFINITION. The five commands (R65) and the notation for command sequences (R71, R72). -/

namespace Sys2Proof

/-- The commands of the opcode map (R65), one constructor per row of the table.
Operands are unsigned and used as they stand (R74), each in the width its format gives it (R64),
so that no term of this type lies outside the encoding. TRANSFORM has no row (R69). -/
inductive Instr where
  /-- INIT, format Z (R80). -/
  | init
  /-- UPDATE, format B: the message byte (R90). -/
  | update (b : Byte)
  /-- FINAL, format Z (R130). -/
  | final
  /-- RDIG, format X: the digest byte index, `imm[4:0]` (R150). -/
  | rdig (x : BitVec 5)
  /-- RSTAT, format Z (R152). -/
  | rstat
  deriving DecidableEq, Repr

/-- One line of the spec's assembler notation (R71) or a pseudo-command (R72).
Operands are the numbers as written, range not yet checked; a character in quotes is its code. -/
inductive AsmLine where
  | init
  | update (n : Nat)
  | final
  | rdig (n : Nat)
  | rstat
  /-- `.word 0xNNNN`: the 16-bit word as given. -/
  | word (w : CmdWord)
  /-- `UPDATE.S b0, ..., b(n-1)`. -/
  | updateS (bs : List Nat)
  /-- `RDIG.ALL`. -/
  | rdigAll
  /-- `HASH b0, ..., b(n-1)`. -/
  | hash (bs : List Nat)
  /-- `POLL`. -/
  | poll
  deriving DecidableEq, Repr

end Sys2Proof
end

