-- ==== Sys2Proof/WellFormed.lean ====
section
/-! DEFINITION. What is well formed: a legal command word (R64, R66) and an assembler line whose operands are in range (R71).
An `Instr` needs no check: its operand widths are those of its format, so every term is a command of the opcode map. -/

namespace Sys2Proof

/-- `op = w[15:8]` (R61). -/
def opOf (w : CmdWord) : Byte :=
  w.extractLsb' 8 8

/-- `imm = w[7:0]` (R61). -/
def immOf (w : CmdWord) : Byte :=
  w.extractLsb' 0 8

/-- A command word is legal (R66, its closed form over `op` and `imm`). -/
def legal (w : CmdWord) : Bool :=
  (opOf w == 0x01 && immOf w == 0) || opOf w == 0x02 || (opOf w == 0x03 && immOf w == 0) ||
    (opOf w == 0x04 && (immOf w).ult 32) || (opOf w == 0x05 && immOf w == 0)

/-- An assembler line's operands are in range: UPDATE at most 255, RDIG at most 31 (R71). -/
def AsmLine.wellFormed : AsmLine → Bool
  | .init => true
  | .update n => n ≤ 255
  | .final => true
  | .rdig n => n ≤ 31
  | .rstat => true
  | .word _ => true
  | .updateS bs => bs.all (· ≤ 255)
  | .rdigAll => true
  | .hash bs => bs.all (· ≤ 255)
  | .poll => true

end Sys2Proof
end

