-- ==== Sys2Proof/Decode.lean ====
section
/-! DEFINITION. Decoding a command word by the opcode map's match and mask (R65), the reserved words by name (R67), and the
encoder. Decoding is total and stateless (R70). -/

namespace Sys2Proof

/-- Which range of R67 a reserved word lies in. -/
inductive Reserved where
  /-- `op = 0x00` or `op >= 0x06`. -/
  | opcode
  /-- `0x0101` to `0x01FF`. -/
  | initOperand
  /-- `0x0301` to `0x03FF`. -/
  | finalOperand
  /-- `0x0420` to `0x04FF`. -/
  | rdigIndex
  /-- `0x0501` to `0x05FF`. -/
  | rstatOperand
  deriving DecidableEq, Repr

/-- `(w AND mask) = match` (R65). -/
def matchesRow (w mask value : CmdWord) : Bool :=
  w &&& mask == value

/-- The range of R67 that a word matching no row lies in. -/
def reservedRange (w : CmdWord) : Reserved :=
  if opOf w = 0x01 then .initOperand
  else if opOf w = 0x03 then .finalOperand
  else if opOf w = 0x04 then .rdigIndex
  else if opOf w = 0x05 then .rstatOperand
  else .opcode

/-- The command a word stands for (R65), or the range of reserved words it lies in (R67). -/
def decode (w : CmdWord) : Except Reserved Instr :=
  if matchesRow w 0xFFFF 0x0100 then .ok .init
  else if matchesRow w 0xFF00 0x0200 then .ok (.update (immOf w))
  else if matchesRow w 0xFFFF 0x0300 then .ok .final
  else if matchesRow w 0xFFE0 0x0400 then .ok (.rdig ((immOf w).extractLsb' 0 5))
  else if matchesRow w 0xFFFF 0x0500 then .ok .rstat
  else .error (reservedRange w)

/-- The command word of a command: `op || imm`, `imm` by format (R61, R64, R65). -/
def encode : Instr → CmdWord
  | .init => 0x0100
  | .update b => 0x0200 ||| b.setWidth 16
  | .final => 0x0300
  | .rdig x => 0x0400 ||| x.setWidth 16
  | .rstat => 0x0500

/-- The command word whose bits are the low `nbits` bits of `w`, numbered as the opcode table numbers them.
A command is one 16-bit word presented whole (R61), so there is no second word to lay out (log entry 12). -/
def tableWord (nbits w : Nat) : CmdWord :=
  BitVec.ofNat 16 (w % 2 ^ nbits)

/-- What the decoder reads from an instruction given as the opcode table numbers its bits. -/
def decodeTableWord (nbits w : Nat) : Option Instr :=
  match decode (tableWord nbits w) with
  | .ok i => some i
  | .error _ => none

/-! Every constructor's decoding, by a word written out bit by bit from R64 and R65. -/

theorem decode_init_word : decode 0b0000000100000000 = .ok .init := by decide

theorem decode_update_word : decode 0b0000001001100001 = .ok (.update 0x61) := by decide

theorem decode_final_word : decode 0b0000001100000000 = .ok .final := by decide

theorem decode_rdig_word : decode 0b0000010000011111 = .ok (.rdig 31) := by decide

theorem decode_rstat_word : decode 0b0000010100000000 = .ok .rstat := by decide

end Sys2Proof
end

