-- ==== Sys2Proof/Machine/State.lean ====
section
/-! DEFINITION. The state of one engine (10_state.md) with the command port's input and output (R60, R205), and the state
after reset (R30). -/

namespace Sys2Proof.Machine

/-- The sequencing register's values (R18). -/
inductive Phase where
  /-- No Initialize since reset; code 0. -/
  | uninit
  /-- Initialize done, Finalize not yet; code 1. -/
  | active
  /-- Finalize done, digest valid; code 2. -/
  | done
  /-- A programming-error violation occurred; code 3. -/
  | fault
  deriving DecidableEq, Repr

/-- The fault causes (R161): the five named ones and none.
Codes 6 and 7 are never written (R161, U8), so they have no constructor (log entry 8). -/
inductive Cause where
  /-- Code 0: the engine is not in FAULT. -/
  | none
  /-- Code 1: a reserved command word (R162). -/
  | illegalCmd
  /-- Code 2: UPDATE or FINAL before INIT (R92, R141). -/
  | notInitialized
  /-- Code 3: UPDATE or FINAL after FINAL (R92, R141). -/
  | alreadyFinalized
  /-- Code 4: INIT on a live operation (R82). -/
  | reinitActive
  /-- Code 5: RDIG outside DONE (R151). -/
  | digestNotReady
  deriving DecidableEq, Repr

/-- What the host can do to the engine (R205). That it stops issuing is the end of the list of moves. -/
inductive HostMove where
  /-- Present one 16-bit command word on the port (R60, R61). -/
  | issue (w : CmdWord)
  /-- Apply reset, between commands (R190). -/
  | reset
  deriving DecidableEq, Repr

/-- Reasons for the machine to stop. There are none: every command has a step in every state (R202), and the engine's five
faults are next states with `phase = FAULT` (R166; log entry 5). Nothing raises a value of this type: safe. -/
inductive Fault : Type
  deriving DecidableEq, Repr

/-- Reasons to refuse an instruction. -/
inductive Refusal where
  /-- Raised by an arm of `exec` whose instruction has no meaning yet, with its mnemonic; no arm of this model does. Safe. -/
  | notModelled (mnemonic : String)
  deriving DecidableEq, Repr

/-- One engine instance (10_state.md), the response of its last command and the host's moves still to come. -/
structure State where
  /-- The state words `H[0..7]` (R10). -/
  H : StateWords
  /-- The block buffer `blk[0..63]` (R11). -/
  blk : Block
  /-- The occupancy (R12, R13). -/
  occ : BitVec 6
  /-- The bit counter (R14). -/
  bitcnt : Dword
  /-- The digest register `dig[0..31]` (R16). -/
  dig : Digest
  /-- The sequencing register (R18). -/
  phase : Phase
  /-- The fault cause (R20). -/
  cause : Cause
  /-- The response to the last command executed (R60, R63): the port's output (log entry 2). -/
  resp : Option Byte
  /-- What the host has still to do, next move first (R60, R62, R205): the model's own field (log entry 1). -/
  host : List HostMove
  /-- How many reset events there have been: the model's own field, it picks the free values of the next (log entry 4). -/
  resets : Nat
  deriving DecidableEq, Repr

/-- Right after reset: `phase = UNINIT`, `cause = 0` (R30, R190).
DESIGN CHOICE (log entry 3): `H`, `blk`, `occ`, `bitcnt`, `dig` are unspecified in the spec and zero here.
DESIGN CHOICE (log entries 1, 2, 4): no response yet, no move of the host placed, no reset event counted. -/
def State.reset : State where
  H := Vector.replicate 8 0
  blk := Vector.replicate 64 0
  occ := 0
  bitcnt := 0
  dig := Vector.replicate 32 0
  phase := .uninit
  cause := .none
  resp := none
  host := []
  resets := 0

end Sys2Proof.Machine
end

