-- ==== Sys2Proof/Machine/Operands.lean ====
section
/-! DEFINITION. Operand forms (R64, R74) and the addresses the commands form from them (20_memory.md section 3). -/

namespace Sys2Proof.Machine

/-- Format B: the message byte, stored unchanged (R74). -/
def messageByte (b : Byte) : Byte :=
  b

/-- Format X: `zext(imm[4:0])`, a byte address of DIG (R74); below 32 by its width (R50). -/
def digAddress (x : BitVec 5) : Fin 32 :=
  x.toFin

/-- The implicit address of UPDATE's store and FINAL's marker: `occ`, a byte address of BLK (R48, R50, R132). -/
def blkAddress (s : State) : Nat :=
  s.occ.toNat

end Sys2Proof.Machine
end

