-- ==== Sys2Proof/Config.lean ====
section
/-! DEFINITION. What the spec leaves open, as constants with no body (free values).
There is no parameter of an implementation: every size is fixed (00_scope section 3, 92_eei_decisions).
The only open values are the registers that a reset event leaves unspecified (R30, R190, R192; log entry 4). Every engine and
every run applies the same constants (DESIGN CHOICE, log entry 14). -/

namespace Sys2Proof.Config

/-- What the k-th reset event of a run leaves in `H` (R190: unspecified). A free value, log entry 4. -/
opaque resetH : Nat → StateWords

/-- What the k-th reset event of a run leaves in `blk` (R190: unspecified). A free value, log entry 4. -/
opaque resetBlk : Nat → Block

/-- What the k-th reset event of a run leaves in `occ` (R190: unspecified). A free value, log entry 4. -/
opaque resetOcc : Nat → BitVec 6

/-- What the k-th reset event of a run leaves in `bitcnt` (R190: unspecified). A free value, log entry 4. -/
opaque resetBitcnt : Nat → Dword

/-- What the k-th reset event of a run leaves in `dig` (R190: unspecified). A free value, log entry 4. -/
opaque resetDig : Nat → Digest

end Sys2Proof.Config
end

