-- ==== Sys2Proof/Machine/Ops.lean ====
section
/-! DEFINITION. The named operations: big-endian loads and stores over BLK and DIG (20_memory.md), the response, taking a
fault (R166), ignoring a command in FAULT (R168), and the reset event (R190). There is no return from a fault (R169). -/

namespace Sys2Proof.Machine

/-- `MemRead(4*i, 4)`: a word load from BLK, big-endian, composed by shifts over indexed bytes (R44, R101). -/
def loadWord (b : Block) (i : Fin 16) : Word :=
  b[4 * i.val].setWidth 32 <<< 24 ||| b[4 * i.val + 1].setWidth 32 <<< 16 |||
    b[4 * i.val + 2].setWidth 32 <<< 8 ||| b[4 * i.val + 3].setWidth 32

/-- Byte `j` of an `n`-byte value, most significant first: `v[8*(n-1-j)+7 : 8*(n-1-j)]` (R45, R46). -/
def byteBE (v : BitVec w) (n j : Nat) : Byte :=
  v.extractLsb' (8 * (n - 1 - j)) 8

/-- `MemWrite(addr, n, v)` and `DigWrite(addr, n, v)`: byte `addr + j` receives byte `j` of `v`, big-endian
(00_scope section 5; R45, R46). -/
@[irreducible] def storeBE (mem : Vector Byte m) (addr n : Nat) (v : BitVec w) : Vector Byte m :=
  Vector.ofFn fun a =>
    if addr ≤ a.val ∧ a.val < addr + n then byteBE v n (a.val - addr) else mem[a.val]

/-- The fill loops of R130 in one: `0x00` at addresses `lo` to `hi - 1` (R133, R134).
`Laws/Ops.lean` proves it equal to the loop of single-byte stores. -/
@[irreducible] def zeroFill (b : Block) (lo hi : Nat) : Block :=
  Vector.ofFn fun a => if lo ≤ a.val ∧ a.val < hi then 0 else b[a.val]

/-- `for k in 0..7: DigWrite(4*k, 4, H[k])` (R46, R138). -/
@[irreducible] def serialise (H : StateWords) (d : Digest) : Digest :=
  (List.finRange 8).foldl (fun d k => storeBE d (4 * k.val) 4 H[k.val]) d

/-- End a command with the response `r` (R60). -/
def respond (r : Option Byte) (s : State) : State :=
  { s with resp := r }

/-- `raise X`: fault entry (R166). It writes `cause`, `phase` and the response, and nothing else. -/
def raise (c : Cause) (s : State) : State :=
  { s with cause := c, phase := .fault, resp := none }

/-- A command ignored in FAULT: no effect on any register and no response (R63, R168). -/
def ignore (s : State) : State :=
  respond none s

/-- The reset event (R190): `phase <- UNINIT`, `cause <- 0`; the host gets nothing back (R205).
`H`, `blk`, `occ`, `bitcnt` and `dig` are unspecified after it: free values, fresh at each event
(R192; DESIGN CHOICE, log entry 4).
DESIGN CHOICE (log entry 14): two engines, or two runs, whose reset counts are equal draw the same free values; the spec says
nothing of how the values of two engines are related (R177, R192). -/
def resetEvent (s : State) : State :=
  { s with
    H := Config.resetH s.resets
    blk := Config.resetBlk s.resets
    occ := Config.resetOcc s.resets
    bitcnt := Config.resetBitcnt s.resets
    dig := Config.resetDig s.resets
    phase := .uninit
    cause := .none
    resp := none
    resets := s.resets + 1 }

end Sys2Proof.Machine
end

