-- ==== Sys2Proof/Machine/Transform.lean ====
section
/-! DEFINITION. TRANSFORM, the block processor (42_transform.md): message-schedule expansion, 64 rounds, feed-forward.
It has no command word (R69); UPDATE and FINAL run it. `W`, `a..h`, `T1`, `T2` are its locals (R27).
The bodies of the functions, the recurrence and the round are the spec's passages from general knowledge: PRESUMED, log entry 9. -/

namespace Sys2Proof.Machine

/-- `ROTR(x, n)`, for the constants `0 < n < 32` the spec uses (00_scope section 5). -/
def rotr (x : Word) (n : Nat) : Word :=
  (x >>> n) ||| (x <<< (32 - n))

/-- `SHR(x, n)`: logical shift right (00_scope section 5). -/
def shr (x : Word) (n : Nat) : Word :=
  x >>> n

/-- σ0 (R103). -/
def ssig0 (x : Word) : Word :=
  rotr x 7 ^^^ rotr x 18 ^^^ shr x 3

/-- σ1 (R103). -/
def ssig1 (x : Word) : Word :=
  rotr x 17 ^^^ rotr x 19 ^^^ shr x 10

/-- Σ0 (R106). -/
def bsig0 (x : Word) : Word :=
  rotr x 2 ^^^ rotr x 13 ^^^ rotr x 22

/-- Σ1 (R106). -/
def bsig1 (x : Word) : Word :=
  rotr x 6 ^^^ rotr x 11 ^^^ rotr x 25

/-- Choice (R105). -/
def ch (x y z : Word) : Word :=
  (x &&& y) ^^^ (~~~x &&& z)

/-- Majority (R105). -/
def maj (x y z : Word) : Word :=
  (x &&& y) ^^^ (x &&& z) ^^^ (y &&& z)

/-- The next schedule word from `W[t-2]`, `W[t-7]`, `W[t-15]`, `W[t-16]`, in the order of R102. -/
def scheduleStep (w2 w7 w15 w16 : Word) : Word :=
  ssig1 w2 + w7 + ssig0 w15 + w16

/-- The first `16 + n` schedule words of a block: the 16 loads of R101, then `n` steps of R102 in ascending `t = 16 + n`. -/
def scheduleTo (b : Block) : (n : Nat) → Vector Word (16 + n)
  | 0 => Vector.ofFn fun i => loadWord b i
  | n + 1 =>
    let w := scheduleTo b n
    w.push (scheduleStep w[14 + n] w[9 + n] w[1 + n] w[n])

/-- The message schedule `W[0..63]` of a block (R24, R101, R102). -/
@[irreducible] def schedule (b : Block) : Vector Word 64 :=
  scheduleTo b 48

/-- The working variables `a..h` (R25). -/
structure Working where
  a : Word
  b : Word
  c : Word
  d : Word
  e : Word
  f : Word
  g : Word
  h : Word
  deriving DecidableEq, Repr

/-- `a..h <- H[0..7]` (R107). -/
def workingOf (H : StateWords) : Working :=
  { a := H[0], b := H[1], c := H[2], d := H[3], e := H[4], f := H[5], g := H[6], h := H[7] }

/-- `T1` of one round (R108). -/
def temp1 (v : Working) (k w : Word) : Word :=
  v.h + bsig1 v.e + ch v.e v.f v.g + k + w

/-- `T2` of one round (R108). -/
def temp2 (v : Working) : Word :=
  bsig0 v.a + maj v.a v.b v.c

/-- One round with constant `k = K[t]` and schedule word `w = W[t]`: eight simultaneous assignments (R108). -/
def compressRound (v : Working) (k w : Word) : Working :=
  { a := temp1 v k w + temp2 v, b := v.a, c := v.b, d := v.c,
    e := v.d + temp1 v k w, f := v.e, g := v.f, h := v.g }

/-- Rounds over a list of pairs `(K[t], W[t])`, first pair first. -/
def runRounds (v : Working) (kw : List (Word × Word)) : Working :=
  kw.foldl (fun v p => compressRound v p.1 p.2) v

/-- The 64 rounds, `t = 0, 1, ..., 63` in that order (R108). -/
def rounds (W : Vector Word 64) (v : Working) : Working :=
  runRounds v (roundConstants.toList.zip W.toList)

/-- `H[i] <- H[i] +32 v_i` with the values before the rounds (R110). -/
def feedForward (H : StateWords) (v : Working) : StateWords :=
  #v[H[0] + v.a, H[1] + v.b, H[2] + v.c, H[3] + v.d,
     H[4] + v.e, H[5] + v.f, H[6] + v.g, H[7] + v.h]

/-- `Compress(H, blk)` (R100, R111): it reads nothing but the state words and the block. -/
@[irreducible] def compress (H : StateWords) (b : Block) : StateWords :=
  feedForward H (rounds (schedule b) (workingOf H))

/-- TRANSFORM as a micro-operation on the state (R100): it writes `H` and nothing else. -/
def transform (s : State) : State :=
  { s with H := compress s.H s.blk }

end Sys2Proof.Machine
end

