-- ==== Sys2Proof/Machine/Absorb.lean ====
section
/-! DEFINITION. UPDATE (41_update.md). -/

namespace Sys2Proof.Machine

/-- UPDATE's effect in ACTIVE (R90, R91): store at `occ`; at the 64th byte TRANSFORM, then `bitcnt +64 512`, then
`occ <- 0`; else `occ + 1`. The value 64 is never stored (R13). -/
def absorbByte (b : Byte) (s : State) : State :=
  let stored := { s with blk := storeBE s.blk (blkAddress s) 1 (messageByte b) }
  respond none <|
    if s.occ = 63 then { transform stored with bitcnt := s.bitcnt + 512, occ := 0 }
    else { stored with occ := s.occ + 1 }

/-- UPDATE (R90, R92). -/
def execUpdate (b : Byte) (s : State) : Host.Outcome State Fault Refusal :=
  match s.phase with
  | .fault => .next (ignore s)
  | .uninit => .next (raise .notInitialized s)
  | .done => .next (raise .alreadyFinalized s)
  | .active => .next (absorbByte b s)

end Sys2Proof.Machine
end

