-- ==== Sys2Proof/Machine/Finish.lean ====
section
/-! DEFINITION. FINAL (43_final.md): the padding state machine, the length field, the digest's serialisation. The steps are
named as R130 names them. -/

namespace Sys2Proof.Machine

/-- `bitcnt <- bitcnt +64 8*n`, with `n = occ` (R131). -/
def countTail (s : State) : State :=
  { s with bitcnt := s.bitcnt + 8 * s.occ.setWidth 64 }

/-- F1 MARK: `0x80` at address `n` (R132). -/
def mark (s : State) : State :=
  { s with blk := storeBE s.blk (blkAddress s) 1 (0x80 : Byte) }

/-- F2 ZERO-A: zeros at `n + 1` to 55 (R133). -/
def zeroA (s : State) : State :=
  { s with blk := zeroFill s.blk (blkAddress s + 1) 56 }

/-- F3 ZERO-B: zeros at `n + 1` to 63 (R134). -/
def zeroB (s : State) : State :=
  { s with blk := zeroFill s.blk (blkAddress s + 1) 64 }

/-- F5 ZERO-C: zeros at 0 to 55, no second marker (R134). -/
def zeroC (s : State) : State :=
  { s with blk := zeroFill s.blk 0 56 }

/-- F2, or F3 to F5 when the occupancy before padding is 56 or more (R133 to R135). -/
def fillToLength (s : State) : State :=
  if s.occ < 56 then zeroA s else zeroC (transform (zeroB s))

/-- F6 LENGTH: the total bit count, big-endian, at 56 to 63 (R136). -/
def putLength (s : State) : State :=
  { s with blk := storeBE s.blk 56 8 s.bitcnt }

/-- F8 SERIALISE: `dig <- H`, big-endian (R138). -/
def putDigest (s : State) : State :=
  { s with dig := serialise s.H s.dig }

/-- FINAL's effect in ACTIVE (R130), `phase <- DONE` last (R139). `occ` and `cause` are not written (R140). -/
def finishOperation (s : State) : State :=
  respond none
    { putDigest (transform (putLength (fillToLength (mark (countTail s))))) with phase := .done }

/-- FINAL (R130, R141). -/
def execFinal (s : State) : Host.Outcome State Fault Refusal :=
  match s.phase with
  | .fault => .next (ignore s)
  | .uninit => .next (raise .notInitialized s)
  | .done => .next (raise .alreadyFinalized s)
  | .active => .next (finishOperation s)

end Sys2Proof.Machine
end

