-- ==== Sys2Proof/Machine/Flags.lean ====
section
/-! DEFINITION. The two status flags (R21) and the STATUS byte (R23, R153). There are no arithmetic flags (R21). -/

namespace Sys2Proof.Machine

/-- The 2-bit code of a phase (R18). -/
def phaseCode : Phase → BitVec 2
  | .uninit => 0
  | .active => 1
  | .done => 2
  | .fault => 3

/-- The 3-bit code of a cause (R161). -/
def causeCode : Cause → BitVec 3
  | .none => 0
  | .illegalCmd => 1
  | .notInitialized => 2
  | .alreadyFinalized => 3
  | .reinitActive => 4
  | .digestNotReady => 5

/-- `done = (phase = DONE)`, D0's `IsCompleted()` (R21). -/
def doneFlag (s : State) : Bool :=
  s.phase == .done

/-- `fault = (phase = FAULT)` (R21). -/
def faultFlag (s : State) : Bool :=
  s.phase == .fault

/-- STATUS: `(cause << 2) OR phase` (R152, R153). -/
def status (s : State) : Byte :=
  ((causeCode s.cause).setWidth 8 <<< 2) ||| (phaseCode s.phase).setWidth 8

/-- What a host reads out of a STATUS byte, by the fields of R153. A non-zero top field or a cause code 6 or 7 is refused: the
engine never sends one (93_implementation_defined.md U8).
DESIGN CHOICE (log entry 13): a byte whose fields are each in range but do not go together, a cause outside FAULT or FAULT without
one, is never sent either (R153, R167) and U8 does not name it; it is read by its fields. -/
def readStatus (r : Byte) : Option (Phase × Cause) :=
  if r.extractLsb' 5 3 ≠ 0 then none
  else
    let phase : Phase :=
      if r.extractLsb' 0 2 = 0 then .uninit
      else if r.extractLsb' 0 2 = 1 then .active
      else if r.extractLsb' 0 2 = 2 then .done
      else .fault
    let code := r.extractLsb' 2 3
    if code = 0 then some (phase, .none)
    else if code = 1 then some (phase, .illegalCmd)
    else if code = 2 then some (phase, .notInitialized)
    else if code = 3 then some (phase, .alreadyFinalized)
    else if code = 4 then some (phase, .reinitActive)
    else if code = 5 then some (phase, .digestNotReady)
    else none

end Sys2Proof.Machine
end

