-- ==== Sys2Proof/Machine/Readout.lean ====
section
/-! DEFINITION. RDIG and RSTAT (44_readout.md). Neither writes a register. -/

namespace Sys2Proof.Machine

/-- RDIG (R150, R151): `dig[x]` in DONE. -/
def execRdig (x : BitVec 5) (s : State) : Host.Outcome State Fault Refusal :=
  match s.phase with
  | .fault => .next (ignore s)
  | .uninit => .next (raise .digestNotReady s)
  | .active => .next (raise .digestNotReady s)
  | .done => .next (respond (some s.dig[(digAddress x).val]) s)

/-- RSTAT (R152): STATUS in every phase, FAULT included. -/
def execRstat (s : State) : Host.Outcome State Fault Refusal :=
  .next (respond (some (status s)) s)

end Sys2Proof.Machine
end

