-- ==== Sys2Proof/Machine/Start.lean ====
section
/-! DEFINITION. INIT (40_init.md). -/

namespace Sys2Proof.Machine

/-- INIT's effect from UNINIT or DONE: a new HashState (R80). `blk`, `dig` and `cause` are not written. -/
def startOperation (s : State) : State :=
  respond none { s with H := iv, occ := 0, bitcnt := 0, phase := .active }

/-- INIT (R80, R82, R83). -/
def execInit (s : State) : Host.Outcome State Fault Refusal :=
  match s.phase with
  | .fault => .next (ignore s)
  | .active => .next (raise .reinitActive s)
  | .uninit => .next (startOperation s)
  | .done => .next (startOperation s)

end Sys2Proof.Machine
end

