-- ==== Sys2Proof/Machine/Dispatch.lean ====
section
/-! DEFINITION. One arm per command of the opcode map (R65), each one call of its meaning. -/

namespace Sys2Proof.Machine

def exec (i : Instr) (s : State) : Host.Outcome State Fault Refusal :=
  match i with
  | .init => Sys2Proof.Machine.execInit s
  | .update b => Sys2Proof.Machine.execUpdate b s
  | .final => Sys2Proof.Machine.execFinal s
  | .rdig x => Sys2Proof.Machine.execRdig x s
  | .rstat => Sys2Proof.Machine.execRstat s

end Sys2Proof.Machine
end

