-- ==== Sys2Proof/Machine/Port.lean ====
section
/-! DEFINITION. The command port (30_encoding.md section 1) and the host's moves (R205). -/

namespace Sys2Proof.Machine

/-- A reserved word on the port: ILLEGAL_CMD, or nothing in FAULT (R67, R162, R168). -/
def acceptReserved (s : State) : State :=
  if s.phase = .fault then ignore s else raise .illegalCmd s

/-- One command word on the port. The checks stand in the order of R164: a word is decoded whatever the phase (R70);
a reserved one faults outside FAULT; a legal one is executed, and its meaning checks the phase. -/
def acceptWord (w : CmdWord) (s : State) : Host.Outcome State Fault Refusal :=
  match decode w with
  | .ok i => exec i s
  | .error _ => .next (acceptReserved s)

/-- One move of the host (R205). -/
def accept (m : HostMove) (s : State) : Host.Outcome State Fault Refusal :=
  match m with
  | .issue w => acceptWord w s
  | .reset => .next (resetEvent s)

/-- Take the host's next move off the list and carry it out to completion (R53, R62).
With none left the engine holds its state (R205: "Stop issuing words"; log entry 1). -/
def takeMove (s : State) : Host.Outcome State Fault Refusal :=
  match s.host with
  | [] => .next s
  | m :: rest => accept m { s with host := rest }

/-- The host's next move is to issue `w`; the moves it had still to make follow (log entry 1). -/
def placeWord (w : CmdWord) (s : State) : State :=
  { s with host := .issue w :: s.host }

end Sys2Proof.Machine
end

