-- ==== Sys2Proof/Machine/Step.lean ====
section
/-! DEFINITION. One step: the engine carries out the host's next move to completion (00_scope section 4, R60). -/

namespace Sys2Proof.Machine

/-- One step of the machine (00_scope section 4, R60, R205). -/
def step (s : State) : Host.Outcome State Fault Refusal :=
  takeMove s

/-- `s` with the instruction whose bits are the low `nbits` bits of `w` (numbered as the opcode table numbers them) placed where
the next step takes it: the host's next move (log entries 1 and 12). -/
def State.withFetchWord (s : State) (nbits w : Nat) : State :=
  placeWord (tableWord nbits w) s

end Sys2Proof.Machine
end

