-- ==== Sys2Proof/Machine/Asm.lean ====
section
/-! DEFINITION. The assembler notation and the pseudo-commands' expansions (R71, R72, R73), and the host's stop test of POLL. -/

namespace Sys2Proof.Machine

/-- An UPDATE's operand: 0 to 255, else an assembly error (R71). -/
def asmByte (n : Nat) : Option Byte :=
  if n ≤ 255 then some (BitVec.ofNat 8 n) else none

/-- An RDIG's operand: 0 to 31, else an assembly error (R71). -/
def asmIndex (n : Nat) : Option (BitVec 5) :=
  if n ≤ 31 then some (BitVec.ofNat 5 n) else none

/-- `UPDATE b0; ...; UPDATE b(n-1)`, nothing when `n = 0` (R72, R73). -/
def sliceWords (bs : List Byte) : List CmdWord :=
  bs.map fun b => encode (.update b)

/-- `RDIG 0; ...; RDIG 31` (R72). -/
def rdigAllWords : List CmdWord :=
  (List.finRange 32).map fun x => encode (.rdig (BitVec.ofFin x))

/-- `INIT; UPDATE.S b0, ..., b(n-1); FINAL; RDIG.ALL` (R72). -/
def hashWords (bs : List Byte) : List CmdWord :=
  encode .init :: sliceWords bs ++ encode .final :: rdigAllWords

/-- The command words of a line, or none on an assembly error (R71, R72).
POLL is one RSTAT; that the host issues it again until `pollStops` is the host's part (log entry 11). -/
def assemble : AsmLine → Option (List CmdWord)
  | .init => some [encode .init]
  | .update n => (asmByte n).map fun b => [encode (.update b)]
  | .final => some [encode .final]
  | .rdig n => (asmIndex n).map fun x => [encode (.rdig x)]
  | .rstat => some [encode .rstat]
  | .word w => some [w]
  | .updateS ns => (ns.mapM asmByte).map sliceWords
  | .rdigAll => some rdigAllWords
  | .hash ns => (ns.mapM asmByte).map hashWords
  | .poll => some [encode .rstat]

/-- POLL stops repeating when `STATUS[1:0]` is 2 (DONE) or 3 (FAULT) (R72). -/
def pollStops (status : Byte) : Bool :=
  let phase := status.extractLsb' 0 2
  phase == 2 || phase == 3

end Sys2Proof.Machine
end

