-- ==== Sys2Proof/Machine/Engines.lean ====
section
/-! DEFINITION. Several engines: independent copies of State, each with its own port (R177). -/

namespace Sys2Proof.Machine

/-- Engine `k` of `n` takes one step; no other engine takes part (R177).
What a reset event leaves in the unspecified registers of two engines is related by the model alone (log entry 14). -/
def stepEngine (es : Vector State n) (k : Fin n) : Host.Outcome (Vector State n) Fault Refusal :=
  match step es[k.val] with
  | .next t => .next (es.set k.val t)
  | .fault r => .fault r
  | .refused r => .refused r

end Sys2Proof.Machine
end

