-- ==== Sys2Proof/Safety.lean ====
section
/-! DEFINITION. The terms claims use: a good run and the outcome of a fault (R181), the fold of commands (R54), the phase table (R19), the invariants
(R15, R22, R167), the message a state has absorbed (R94) and the digest of a message (R142, R143). -/

namespace Sys2Proof.Machine

/-- A good end of a run: `phase != FAULT` (00_scope section 4, R181). -/
def Good (s : State) : Prop :=
  s.phase ≠ .fault

/-- How a step or a run ends: a fault is an outcome of its own, apart from a normal one (R181). -/
inductive Ending where
  /-- Outside FAULT: the good end. -/
  | good (t : State)
  /-- In FAULT, with the cause recorded: never a good end. -/
  | faulted (c : Cause) (t : State)
  /-- No next state. No command of this model and no reset ends so (R202). -/
  | stopped
  deriving DecidableEq, Repr

/-- The ending of a step's or a run's outcome (R181). -/
def ending (o : Host.Outcome State Fault Refusal) : Ending :=
  match o with
  | .next t => if t.phase = .fault then .faulted t.cause t else .good t
  | .fault _ => .stopped
  | .refused _ => .stopped

/-- The left fold of `accept` over the host's moves (R54). -/
def runMoves : List HostMove → State → Host.Outcome State Fault Refusal
  | [], s => .next s
  | m :: ms, s =>
    match accept m s with
    | .next t => runMoves ms t
    | .fault r => .fault r
    | .refused r => .refused r

/-- The left fold of the commands over a sequence of command words (R54). -/
def runWords (ws : List CmdWord) (s : State) : Host.Outcome State Fault Refusal :=
  runMoves (ws.map .issue) s

/-- A command sequence ends well: outside FAULT (R181). Every claim about one particular command sequence states it. -/
def endsWell (ws : List CmdWord) (s : State) : Bool :=
  match ending (runWords ws s) with
  | .good _ => true
  | .faulted _ _ => false
  | .stopped => false

/-- The responses to a sequence of command words, in order (R60). -/
def responses : List CmdWord → State → List (Option Byte)
  | [], _ => []
  | w :: ws, s =>
    match acceptWord w s with
    | .next t => t.resp :: responses ws t
    | .fault _ => []
    | .refused _ => []

/-- The phase table, one line per row of R19; an illegal word is its last column. -/
def phaseTable : Phase → Except Reserved Instr → Phase
  | .uninit, .ok .init => .active
  | .uninit, .ok .rstat => .uninit
  | .uninit, _ => .fault
  | .active, .ok (.update _) => .active
  | .active, .ok .final => .done
  | .active, .ok .rstat => .active
  | .active, _ => .fault
  | .done, .ok .init => .active
  | .done, .ok (.rdig _) => .done
  | .done, .ok .rstat => .done
  | .done, _ => .fault
  | .fault, _ => .fault

/-- The fault named in a cell of R19's table, if there is one. -/
def faultTable : Phase → Except Reserved Instr → Option Cause
  | .fault, _ => none
  | _, .error _ => some .illegalCmd
  | .uninit, .ok (.update _) => some .notInitialized
  | .uninit, .ok .final => some .notInitialized
  | .uninit, .ok (.rdig _) => some .digestNotReady
  | .active, .ok .init => some .reinitActive
  | .active, .ok (.rdig _) => some .digestNotReady
  | .done, .ok (.update _) => some .alreadyFinalized
  | .done, .ok .final => some .alreadyFinalized
  | _, .ok _ => none

/-- `cause != 0` iff `phase = FAULT` (R167). -/
def FaultInv (s : State) : Prop :=
  s.cause ≠ .none ↔ s.phase = .fault

/-- In DONE, `dig` is the complete serialisation of the state words (R22). -/
def DigestInv (s : State) : Prop :=
  s.phase = .done → ∀ (k : Fin 8) (j : Fin 4),
    s.dig[4 * k.val + j.val] = s.H[k.val].extractLsb' (24 - 8 * j.val) 8

/-- In ACTIVE the counter is a whole number of blocks; in DONE it is a whole number of bytes and stands, big-endian, in the last
8 bytes of the block (R15, R131, R136, R140). -/
def CounterInv (s : State) : Prop :=
  (s.phase = .active → s.bitcnt.toNat % 512 = 0) ∧
  (s.phase = .done → s.bitcnt.toNat % 8 = 0 ∧ ∀ j : Fin 8,
    s.blk[56 + j.val] = s.bitcnt.extractLsb' (56 - 8 * j.val) 8)

/-- The 64 bytes at offset `64*j` of a byte string that is long enough. -/
@[irreducible] def blockAt (m : List Byte) (j : Nat) : Block :=
  Vector.ofFn fun a => m.getD (64 * j + a.val) 0

/-- `Compress` folded over the first `q` blocks of a byte string (R111, R143). -/
def compressBlocks (m : List Byte) (q : Nat) (H : StateWords) : StateWords :=
  (List.range q).foldl (fun H j => compress H (blockAt m j)) H

/-- The state has received exactly the message bytes `m` since INIT (R15, R94). -/
structure Absorbed (m : List Byte) (s : State) : Prop where
  phase : s.phase = .active
  words : s.H = compressBlocks m (m.length / 64) iv
  occ : s.occ.toNat = m.length % 64
  bitcnt : s.bitcnt = BitVec.ofNat 64 (512 * (m.length / 64))
  tail : ∀ a : Fin 64, a.val < m.length % 64 → some s.blk[a.val] = m[64 * (m.length / 64) + a.val]?

/-- The message bytes buffered in the block: `blk[0 .. occ-1]` (R12). -/
def buffered (s : State) : List Byte :=
  s.blk.toList.take s.occ.toNat

/-- `BE64(v)`: the 8-byte big-endian encoding (R142). -/
@[irreducible] def be64 (v : Dword) : List Byte :=
  (List.range 8).map fun j => v.extractLsb' (56 - 8 * j) 8

/-- The padded message: `M || 0x80 || 0x00^z || BE64((8N) mod 2^64)`, `z = (55 - N) mod 64` (R142). -/
@[irreducible] def padded (m : List Byte) : List Byte :=
  m ++ [0x80] ++ List.replicate ((119 - m.length % 64) % 64) 0 ++ be64 (BitVec.ofNat 64 (8 * m.length))

/-- `H_f`: `Compress` folded over the blocks of the padded message, starting from IV (R143). -/
def finalWords (m : List Byte) : StateWords :=
  compressBlocks (padded m) ((padded m).length / 64) iv

/-- The digest of a message: `BE32(H_f[0]) || ... || BE32(H_f[7])` (R143). -/
@[irreducible] def digestOf (m : List Byte) : Digest :=
  Vector.ofFn fun a => (finalWords m)[a.val / 4].extractLsb' (24 - 8 * (a.val % 4)) 8

/-- The next window: drop the oldest schedule word, take in the one the recurrence gives (R115). -/
@[irreducible] def windowNext (win : Vector Word 16) : Vector Word 16 :=
  Vector.ofFn fun i =>
    if h : i.val < 15 then win[i.val + 1] else scheduleStep win[14] win[9] win[1] win[0]

/-- An implementation of `Compress` that keeps only a 16-word sliding window of the schedule and expands it round by round
(R27, R115). -/
def compressWindow (H : StateWords) (b : Block) : StateWords :=
  let start : Working × Vector Word 16 := (workingOf H, Vector.ofFn fun i => loadWord b i)
  feedForward H
    (roundConstants.toList.foldl (fun p k => (compressRound p.1 k p.2[0], windowNext p.2)) start).1

end Sys2Proof.Machine
end

