-- ==== Sys2Proof/Certificates/Slice0/Obligations.lean ====
section
/-! DEFINITION. The statements about the machine, from the spec's numbered rules. No statement rests on a register's value in
`State.reset` that the spec leaves unspecified (log entry 3) or on a free value (log entry 4). -/

open Sys2Proof Sys2Proof.Machine

/-! ### Encoding -/

/-- Every command decodes from its own word, with every operand at every value (R61, R64, R65). -/
def Obligations.DecodeEncodeRoundTrip : Prop :=
  ∀ i : Instr, decode (encode i) = .ok i

/-- A word that decodes is the encoding of what it decodes to: one word per command (R61, R65). -/
def Obligations.DecodedWordIsItsEncoding : Prop :=
  ∀ (w : CmdWord) (i : Instr), decode w = .ok i → encode i = w

/-- R65: a word is a command iff `(w AND mask) = match` for its row; the five patterns are pairwise disjoint. -/
def Obligations.OpcodeMapSelectsCommand : Prop :=
  (∀ w : CmdWord,
    (decode w = .ok .init ↔ w &&& 0xFFFF = 0x0100) ∧
    ((∃ b, decode w = .ok (.update b)) ↔ w &&& 0xFF00 = 0x0200) ∧
    (decode w = .ok .final ↔ w &&& 0xFFFF = 0x0300) ∧
    ((∃ x, decode w = .ok (.rdig x)) ↔ w &&& 0xFFE0 = 0x0400) ∧
    (decode w = .ok .rstat ↔ w &&& 0xFFFF = 0x0500)) ∧
  ∀ w : CmdWord,
    [((0xFFFF, 0x0100) : CmdWord × CmdWord), (0xFF00, 0x0200), (0xFFFF, 0x0300), (0xFFE0, 0x0400), (0xFFFF, 0x0500)].Pairwise
      fun r q => ¬(w &&& r.1 = r.2 ∧ w &&& q.1 = q.2)

/-- R66: the legal words in closed form over `op` and `imm`, and their number. -/
def Obligations.LegalWordsInClosedForm : Prop :=
  (∀ w : CmdWord, (∃ i, decode w = .ok i) ↔
    (opOf w = 0x01 ∧ immOf w = 0) ∨ opOf w = 0x02 ∨ (opOf w = 0x03 ∧ immOf w = 0) ∨
      (opOf w = 0x04 ∧ (immOf w).toNat < 32) ∨ (opOf w = 0x05 ∧ immOf w = 0)) ∧
  ∃ words : List CmdWord, words.Nodup ∧ words.length = 291 ∧ ∀ w, w ∈ words ↔ ∃ i, decode w = .ok i

/-- R67: the reserved words are the listed ranges and no others, and each raises ILLEGAL_CMD outside FAULT. -/
def Obligations.ReservedWordsFault : Prop :=
  (∀ w : CmdWord,
    (∀ i, decode w ≠ .ok i) ↔
      opOf w = 0x00 ∨ 0x06 ≤ (opOf w).toNat ∨ (0x0101 ≤ w.toNat ∧ w.toNat ≤ 0x01FF) ∨
        (0x0301 ≤ w.toNat ∧ w.toNat ≤ 0x03FF) ∨ (0x0420 ≤ w.toNat ∧ w.toNat ≤ 0x04FF) ∨
        (0x0501 ≤ w.toNat ∧ w.toNat ≤ 0x05FF)) ∧
  (∀ i, decode 0x0000 ≠ .ok i ∧ decode 0xFFFF ≠ .ok i) ∧
  ∀ (w : CmdWord) (s : State), (∀ i, decode w ≠ .ok i) → s.phase ≠ .fault →
    acceptWord w s = .next { s with cause := .illegalCmd, phase := .fault, resp := none }

/-- R74: operands are used as they stand: the B operand is `imm`, stored unchanged; the X operand is `zext(imm[4:0])`, a DIG
byte address. -/
def Obligations.OperandsUsedAsTheyStand : Prop :=
  (∀ (w : CmdWord) (b : Byte) (s : State), decode w = .ok (.update b) → s.phase = .active →
    b = immOf w ∧ ∃ t, acceptWord w s = .next t ∧ t.blk[s.occ.toNat] = immOf w) ∧
  ∀ (w : CmdWord) (x : BitVec 5) (s : State), decode w = .ok (.rdig x) → s.phase = .done →
    x.setWidth 8 = immOf w ∧ ∃ t, acceptWord w s = .next t ∧ t.resp = s.dig[(immOf w).toNat]?

/-- Words written out from R64 and R65, each of the five commands and three reserved words. -/
def Obligations.DecodeOfWrittenWords : Prop :=
  decode 0b0000000100000000 = .ok .init ∧ decode 0b0000001010000000 = .ok (.update 0x80) ∧
  decode 0b0000001011111111 = .ok (.update 0xFF) ∧ decode 0b0000001100000000 = .ok .final ∧
  decode 0b0000010000010000 = .ok (.rdig 16) ∧ decode 0b0000010100000000 = .ok .rstat ∧
  decode 0b0000001100000001 = .error .finalOperand ∧ decode 0b0000010000100000 = .error .rdigIndex ∧
  decode 0b1000000100000000 = .error .opcode

/-- R71: an operand out of range is an assembly error, and the assembler emits a reserved word only through `.word`. -/
def Obligations.AssemblerEmitsLegalWords : Prop :=
  (∀ line : AsmLine, assemble line = none ↔ line.wellFormed = false) ∧
  ∀ (line : AsmLine) (ws : List CmdWord), assemble line = some ws → (∀ w, line ≠ .word w) →
    ∀ w ∈ ws, ∃ i, decode w = .ok i

/-! ### The step -/

/-- When the host's next move issues a word that decodes, the step is `exec` of what it decodes to, the move taken off. -/
def Obligations.StepRunsDecodedCommand : Prop :=
  ∀ (s : State) (w : CmdWord) (i : Instr) (rest : List HostMove),
    s.host = .issue w :: rest → decode w = .ok i → step s = exec i { s with host := rest }

/-- R162, R168: a reserved word on the port, step by step. -/
def Obligations.StepOnReservedWord : Prop :=
  ∀ (s : State) (w : CmdWord) (rest : List HostMove), s.host = .issue w :: rest → (∀ i, decode w ≠ .ok i) →
    (s.phase ≠ .fault → step s = .next { s with host := rest, cause := .illegalCmd, phase := .fault, resp := none }) ∧
    (s.phase = .fault → step s = .next { s with host := rest, resp := none })

/-- R190, R205: the reset event between commands, whatever the phase. What it leaves in `H`, `blk`, `occ`, `bitcnt` and `dig` is
not stated (unspecified; free values, log entry 4). -/
def Obligations.StepAppliesReset : Prop :=
  ∀ (s : State) (rest : List HostMove), s.host = .reset :: rest →
    ∃ t, step s = .next t ∧ t.phase = .uninit ∧ t.cause = .none ∧ t.resp = none ∧ t.host = rest

/-- R205, R171: with no move of the host the engine holds its state, for any number of steps. -/
def Obligations.IdleEngineHoldsState : Prop :=
  ∀ (s : State) (n : Nat), s.host = [] → Sys2Proof.core.run n s = .next s

/-- R202, R60: every step ends in a next state, for every state and every word. -/
def Obligations.EveryStepCompletes : Prop :=
  (∀ s : State, ∃ t, step s = .next t) ∧ ∀ (w : CmdWord) (s : State), ∃ t, acceptWord w s = .next t

/-- R54, R62: the steps of the machine are the left fold of the host's moves, in order, none dropped or duplicated.
The two outcomes are equal whether the run ends well or in FAULT (R181). -/
def Obligations.StepsFoldHostMoves : Prop :=
  ∀ (ms rest : List HostMove) (s : State),
    Sys2Proof.core.run ms.length { s with host := ms ++ rest } = runMoves ms { s with host := rest }

/-- R177: a step of one engine leaves every other engine as it was, and steps its own copy of State. -/
def Obligations.EnginesAreIndependent : Prop :=
  ∀ (n : Nat) (es : Vector State n) (k : Fin n),
    ∃ fs, stepEngine es k = .next fs ∧ step es[k.val] = .next fs[k.val] ∧ ∀ j : Fin n, j ≠ k → fs[j.val] = es[j.val]

/-! ### INIT -/

/-- R80: INIT in every phase, its encoding and its worked example. -/
def Obligations.InitStartsOperation : Prop :=
  (∀ s : State, s.phase = .fault → exec .init s = .next { s with resp := none }) ∧
  (∀ s : State, s.phase = .active →
    exec .init s = .next { s with cause := .reinitActive, phase := .fault, resp := none }) ∧
  (∀ s : State, s.phase = .uninit ∨ s.phase = .done →
    ∃ t, exec .init s = .next t ∧
      (∀ i : Fin 8, t.H[i.val] = iv[i.val]) ∧
      t.occ = 0 ∧ t.bitcnt = 0 ∧ t.phase = .active ∧ t.resp = none ∧
      t.blk = s.blk ∧ t.dig = s.dig ∧ t.cause = s.cause ∧ t.host = s.host ∧ t.resets = s.resets ∧
      doneFlag t = false ∧ faultFlag t = false) ∧
  (∀ (w : CmdWord) (s : State), 0x0101 ≤ w.toNat → w.toNat ≤ 0x01FF → s.phase ≠ .fault →
    acceptWord w s = .next { s with cause := .illegalCmd, phase := .fault, resp := none }) ∧
  decode 0x0100 = .ok .init ∧
  responses [0x0100, 0x0500] State.reset = [none, some 0x01] ∧ endsWell [0x0100, 0x0500] State.reset = true

/-- R82: INIT in ACTIVE raises REINIT_ACTIVE (cause 4) and does not restart the operation. -/
def Obligations.InitInActiveFaults : Prop :=
  causeCode .reinitActive = 4 ∧
  ∀ s : State, s.phase = .active →
    ∃ t, exec .init s = .next t ∧ t.phase = .fault ∧ t.cause = .reinitActive ∧ t.resp = none ∧
      t.H = s.H ∧ t.blk = s.blk ∧ t.occ = s.occ ∧ t.bitcnt = s.bitcnt ∧ t.dig = s.dig

/-- R83: INIT is legal in UNINIT and in DONE; from DONE it keeps the old digest, which RDIG can no longer read. -/
def Obligations.InitFromDoneHidesDigest : Prop :=
  (∀ s : State, s.phase = .uninit → ∃ t, exec .init s = .next t ∧ t.phase = .active) ∧
  ∀ (s : State) (x : BitVec 5), s.phase = .done →
    ∃ t u, exec .init s = .next t ∧ t.phase = .active ∧ t.dig = s.dig ∧
      exec (.rdig x) t = .next u ∧ u.phase = .fault ∧ u.cause = .digestNotReady ∧ u.resp = none

/-- What INIT leaves unchanged, in every phase (R32, R80). -/
def Obligations.InitFrame : Prop :=
  ∀ s t : State, exec .init s = .next t →
    (∀ a : Fin 64, t.blk[a.val] = s.blk[a.val]) ∧ (∀ a : Fin 32, t.dig[a.val] = s.dig[a.val]) ∧
    t.host = s.host ∧ t.resets = s.resets ∧ (s.phase ≠ .active → t.cause = s.cause)

/-! ### UPDATE -/

/-- R90, R91: UPDATE in every phase; in ACTIVE the store, the block boundary and the counter; its encoding and its worked
example. -/
def Obligations.UpdateAbsorbsByte : Prop :=
  (∀ b : Byte, decode (0x0200 ||| b.setWidth 16) = .ok (.update b)) ∧
  (∀ s : State, s.phase = .active → s.occ = 0 →
    acceptWord 0x0261 s = .next { s with blk := s.blk.set 0 0x61, occ := 1, resp := none }) ∧
  ∀ (b : Byte) (s : State),
    (s.phase = .fault → exec (.update b) s = .next { s with resp := none }) ∧
    (s.phase = .uninit → exec (.update b) s = .next { s with cause := .notInitialized, phase := .fault, resp := none }) ∧
    (s.phase = .done → exec (.update b) s = .next { s with cause := .alreadyFinalized, phase := .fault, resp := none }) ∧
    (s.phase = .active →
      ∃ t, exec (.update b) s = .next t ∧
        (∀ a : Fin 64, t.blk[a.val] = if a.val = s.occ.toNat then b else s.blk[a.val]) ∧
        (s.occ.toNat = 63 → t.H = compress s.H t.blk ∧ t.bitcnt = s.bitcnt + 512 ∧ t.occ.toNat = 0) ∧
        (s.occ.toNat ≠ 63 → t.H = s.H ∧ t.bitcnt = s.bitcnt ∧ t.occ.toNat = s.occ.toNat + 1) ∧
        t.dig = s.dig ∧ t.phase = .active ∧ t.cause = s.cause ∧ t.resp = none ∧ t.host = s.host ∧ t.resets = s.resets)

/-- R92: UPDATE out of order faults and stores nothing. -/
def Obligations.UpdateOutOfOrderFaults : Prop :=
  causeCode .notInitialized = 2 ∧ causeCode .alreadyFinalized = 3 ∧
  ∀ (b : Byte) (s : State), s.phase = .uninit ∨ s.phase = .done →
    ∃ t, exec (.update b) s = .next t ∧ t.phase = .fault ∧
      t.cause = (if s.phase = .uninit then .notInitialized else .alreadyFinalized) ∧ t.resp = none ∧
      t.H = s.H ∧ t.blk = s.blk ∧ t.occ = s.occ ∧ t.bitcnt = s.bitcnt ∧ t.dig = s.dig

/-- What UPDATE leaves unchanged, in every phase: every byte of BLK but the one at `blkAddress s`, and the registers it does not
write (R32, R90). -/
def Obligations.UpdateFrame : Prop :=
  ∀ (b : Byte) (s t : State), exec (.update b) s = .next t →
    (∀ a : Fin 64, a.val ≠ blkAddress s → t.blk[a.val] = s.blk[a.val]) ∧
    (∀ a : Fin 32, t.dig[a.val] = s.dig[a.val]) ∧
    (s.phase ≠ .active → ∀ a : Fin 64, t.blk[a.val] = s.blk[a.val]) ∧
    (s.phase ≠ .active ∨ s.occ ≠ 63 → t.H = s.H ∧ t.bitcnt = s.bitcnt) ∧
    (s.phase ≠ .active → t.occ = s.occ) ∧
    (s.phase = .active ∨ s.phase = .fault → t.cause = s.cause ∧ t.phase = s.phase) ∧
    t.host = s.host ∧ t.resets = s.resets

/-- R94: the slice view of Update in closed form, from any state in ACTIVE: with `o = occ`, `q = floor((o + n) / 64)` and the
string `blk[0..o-1] || s`. -/
def Obligations.SliceInClosedForm : Prop :=
  ∀ (bs : List Byte) (s : State), s.phase = .active →
    ∃ t, runWords (sliceWords bs) s = .next t ∧
      let text := buffered s ++ bs
      let q := (s.occ.toNat + bs.length) / 64
      Good t ∧ t.phase = .active ∧ t.occ.toNat = (s.occ.toNat + bs.length) % 64 ∧
      t.bitcnt = s.bitcnt + BitVec.ofNat 64 (512 * q) ∧
      t.H = compressBlocks text q s.H ∧
      (∀ a : Fin 64, a.val < t.occ.toNat → some t.blk[a.val] = text[64 * q + a.val]?) ∧
      t.dig = s.dig ∧ t.cause = s.cause ∧ t.host = s.host ∧ t.resets = s.resets

/-- R95, R181: a slice in one piece or in two leaves the same state, every member of it, and neither run ends in FAULT. -/
def Obligations.ChunkingInvariance : Prop :=
  ∀ (bs cs : List Byte) (s : State), s.phase = .active →
    ∃ t u, runWords (sliceWords bs) s = .next t ∧ runWords (sliceWords cs) t = .next u ∧
      runWords (sliceWords (bs ++ cs)) s = .next u ∧ Good t ∧ Good u

/-! ### TRANSFORM -/

/-- R101, R102: the schedule: 16 big-endian loads, then the recurrence.
The recurrence is a passage from general knowledge (log entry 9). -/
def Obligations.ScheduleFollowsRecurrence : Prop :=
  ∀ b : Block,
    (∀ (i : Nat) (h : i < 16),
      (schedule b)[i] = b[4 * i] ++ b[4 * i + 1] ++ b[4 * i + 2] ++ b[4 * i + 3]) ∧
    ∀ (t : Nat) (_ : 16 ≤ t) (h : t < 64),
      (schedule b)[t] =
        ssig1 (schedule b)[t - 2] + (schedule b)[t - 7] + ssig0 (schedule b)[t - 15] + (schedule b)[t - 16]

/-- R103, R106: each bit of the four sigma functions, the rotations wrapping and the shifts bringing in zeros.
The bodies are passages from general knowledge (log entry 9). -/
def Obligations.SigmaFunctionsBitByBit : Prop :=
  ∀ (x : Word) (i : Nat), i < 32 →
    let rot := fun n => x.getLsbD ((i + n) % 32)
    (ssig0 x).getLsbD i = ((rot 7 ^^ rot 18) ^^ x.getLsbD (i + 3)) ∧
    (ssig1 x).getLsbD i = ((rot 17 ^^ rot 19) ^^ x.getLsbD (i + 10)) ∧
    (bsig0 x).getLsbD i = ((rot 2 ^^ rot 13) ^^ rot 22) ∧
    (bsig1 x).getLsbD i = ((rot 6 ^^ rot 11) ^^ rot 25)

/-- R105: bit by bit, Ch takes y's bit where x's is 1 and z's where it is 0; Maj is the majority of the three.
The bodies are passages from general knowledge (log entry 9). -/
def Obligations.ChooseAndMajorityBitByBit : Prop :=
  ∀ (x y z : Word) (i : Nat),
    (ch x y z).getLsbD i = (if x.getLsbD i then y.getLsbD i else z.getLsbD i) ∧
    (maj x y z).getLsbD i =
      decide (2 ≤ (x.getLsbD i).toNat + (y.getLsbD i).toNat + (z.getLsbD i).toNat)

/-- R81, R104: the initial values and the round constants are the first 32 bits of the fractional parts of the square roots of the
first 8 primes and of the cube roots of the first 64, those below 312. The values are passages from general knowledge (log
entry 9). -/
def Obligations.TablesAreRootFractions : Prop :=
  let primes := (List.range 312).filter fun p => 2 ≤ p ∧ ∀ d ∈ List.range p, 2 ≤ d → p % d ≠ 0
  primes.length = 64 ∧
  iv = #v[0x6a09e667, 0xbb67ae85, 0x3c6ef372, 0xa54ff53a, 0x510e527f, 0x9b05688c, 0x1f83d9ab, 0x5be0cd19] ∧
  (∀ q ∈ primes.zip iv.toList, ∃ c : Nat,
    (c * 2 ^ 32 + q.2.toNat) ^ 2 ≤ q.1 * 2 ^ 64 ∧ q.1 * 2 ^ 64 < (c * 2 ^ 32 + q.2.toNat + 1) ^ 2) ∧
  ∀ q ∈ primes.zip roundConstants.toList, ∃ c : Nat,
    (c * 2 ^ 32 + q.2.toNat) ^ 3 ≤ q.1 * 2 ^ 96 ∧ q.1 * 2 ^ 96 < (c * 2 ^ 32 + q.2.toNat + 1) ^ 3

/-- R107, R108, R110: `Compress` as a trace of the working variables over the 64 rounds, then the feed-forward.
The round's body is a passage from general knowledge (log entry 9). -/
def Obligations.CompressIsSixtyFourRounds : Prop :=
  ∀ (H : StateWords) (blk : Block), ∃ v : Nat → Working,
    v 0 = { a := H[0], b := H[1], c := H[2], d := H[3], e := H[4], f := H[5], g := H[6], h := H[7] } ∧
    (∀ (t : Nat) (_ : t < 64),
      let t1 := (v t).h + bsig1 (v t).e + ch (v t).e (v t).f (v t).g + roundConstants[t] + (schedule blk)[t]
      let t2 := bsig0 (v t).a + maj (v t).a (v t).b (v t).c
      v (t + 1) =
        { a := t1 + t2, b := (v t).a, c := (v t).b, d := (v t).c,
          e := (v t).d + t1, f := (v t).e, g := (v t).f, h := (v t).g }) ∧
    compress H blk =
      #v[H[0] + (v 64).a, H[1] + (v 64).b, H[2] + (v 64).c, H[3] + (v 64).d,
         H[4] + (v 64).e, H[5] + (v 64).f, H[6] + (v 64).g, H[7] + (v 64).h]

/-- R115, R27: an implementation that keeps a 16-word window and expands the schedule round by round computes the same. -/
def Obligations.SlidingWindowComputesCompress : Prop :=
  ∀ (H : StateWords) (b : Block), compressWindow H b = compress H b

/-! ### FINAL -/

/-- R136: FINAL in ACTIVE leaves the length in bits, big-endian, in the last 8 bytes of the block, in both cases. -/
def Obligations.FinalWritesLengthField : Prop :=
  ∀ s : State, s.phase = .active →
    ∃ t, exec .final s = .next t ∧ t.bitcnt = s.bitcnt + BitVec.ofNat 64 (8 * s.occ.toNat) ∧
      t.blk[56] = t.bitcnt.extractLsb' 56 8 ∧ t.blk[57] = t.bitcnt.extractLsb' 48 8 ∧
      t.blk[58] = t.bitcnt.extractLsb' 40 8 ∧ t.blk[59] = t.bitcnt.extractLsb' 32 8 ∧
      t.blk[60] = t.bitcnt.extractLsb' 24 8 ∧ t.blk[61] = t.bitcnt.extractLsb' 16 8 ∧
      t.blk[62] = t.bitcnt.extractLsb' 8 8 ∧ t.blk[63] = t.bitcnt.extractLsb' 0 8

/-- R133, with the marker of R132: FINAL in ACTIVE with fewer than 56 bytes buffered: one block, one TRANSFORM. -/
def Obligations.FinalOneBlock : Prop :=
  ∀ s : State, s.phase = .active → s.occ.toNat < 56 →
    ∃ t, exec .final s = .next t ∧
      t.bitcnt = s.bitcnt + BitVec.ofNat 64 (8 * s.occ.toNat) ∧
      (∀ a : Fin 64, t.blk[a.val] =
        if a.val < s.occ.toNat then s.blk[a.val]
        else if a.val = s.occ.toNat then 0x80
        else if a.val < 56 then 0x00
        else t.bitcnt.extractLsb' (56 - 8 * (a.val - 56)) 8) ∧
      t.H = compress s.H t.blk ∧
      t.occ = s.occ ∧ t.phase = .done ∧ t.cause = s.cause ∧ t.resp = none ∧ t.host = s.host ∧ t.resets = s.resets

/-- R134, with the marker of R132: FINAL in ACTIVE with 56 or more bytes buffered: two blocks, two TRANSFORMs. -/
def Obligations.FinalTwoBlocks : Prop :=
  ∀ s : State, s.phase = .active → 56 ≤ s.occ.toNat →
    ∃ (t : State) (first : Block), exec .final s = .next t ∧
      t.bitcnt = s.bitcnt + BitVec.ofNat 64 (8 * s.occ.toNat) ∧
      (∀ a : Fin 64, first[a.val] =
        if a.val < s.occ.toNat then s.blk[a.val]
        else if a.val = s.occ.toNat then 0x80
        else 0x00) ∧
      (∀ a : Fin 64, t.blk[a.val] =
        if a.val < 56 then 0x00 else t.bitcnt.extractLsb' (56 - 8 * (a.val - 56)) 8) ∧
      t.H = compress (compress s.H first) t.blk ∧
      t.occ = s.occ ∧ t.phase = .done ∧ t.cause = s.cause ∧ t.resp = none ∧ t.host = s.host ∧ t.resets = s.resets

/-- R138: the digest is the state words, big-endian, 32 bytes whatever the message. -/
def Obligations.FinalSerialisesDigest : Prop :=
  ∀ s : State, s.phase = .active →
    ∃ t, exec .final s = .next t ∧ t.dig.toList.length = 32 ∧
      ∀ k : Fin 8,
        t.dig[4 * k.val] = t.H[k.val].extractLsb' 24 8 ∧ t.dig[4 * k.val + 1] = t.H[k.val].extractLsb' 16 8 ∧
        t.dig[4 * k.val + 2] = t.H[k.val].extractLsb' 8 8 ∧ t.dig[4 * k.val + 3] = t.H[k.val].extractLsb' 0 8

/-- R141: FINAL out of order faults and writes nothing but phase and cause; a second FINAL does not disturb `dig`. -/
def Obligations.FinalOutOfOrderFaults : Prop :=
  causeCode .notInitialized = 2 ∧ causeCode .alreadyFinalized = 3 ∧
  (∀ s : State, s.phase = .uninit →
    exec .final s = .next { s with cause := .notInitialized, phase := .fault, resp := none }) ∧
  (∀ s : State, s.phase = .done →
    exec .final s = .next { s with cause := .alreadyFinalized, phase := .fault, resp := none }) ∧
  ∀ (s t : State) (x : BitVec 5), s.phase = .done → exec .final s = .next t →
    t.dig = s.dig ∧ ∃ u, exec (.rdig x) t = .next u ∧ u.resp = none ∧ u.phase = .fault

/-- What FINAL leaves unchanged, in every phase: `occ`, the bytes of BLK below the marker in the one-block case, all of BLK, H,
bitcnt and DIG outside ACTIVE (R32, R130, R140). -/
def Obligations.FinalFrame : Prop :=
  ∀ s t : State, exec .final s = .next t →
    t.occ = s.occ ∧ t.host = s.host ∧ t.resets = s.resets ∧
    (s.occ.toNat < 56 → ∀ a : Fin 64, a.val < blkAddress s → t.blk[a.val] = s.blk[a.val]) ∧
    (s.phase ≠ .active → t.H = s.H ∧ t.bitcnt = s.bitcnt ∧
      (∀ a : Fin 64, t.blk[a.val] = s.blk[a.val]) ∧ ∀ a : Fin 32, t.dig[a.val] = s.dig[a.val]) ∧
    (s.phase = .active ∨ s.phase = .fault → t.cause = s.cause)

/-! ### The message and its digest -/

/-- R15, R80: after INIT the state has absorbed the empty message. -/
def Obligations.InitAbsorbsNothing : Prop :=
  ∀ s : State, s.phase = .uninit ∨ s.phase = .done → ∃ t, exec .init s = .next t ∧ Absorbed [] t

/-- R15, R90: an UPDATE appends its byte to the message the state has absorbed. -/
def Obligations.UpdateExtendsMessage : Prop :=
  ∀ (m : List Byte) (b : Byte) (s : State), Absorbed m s → ∃ t, exec (.update b) s = .next t ∧ Absorbed (m ++ [b]) t

/-- R131, R142, R143: FINAL leaves the digest of the message the state has absorbed, and its length in bits. -/
def Obligations.FinalComputesDigest : Prop :=
  ∀ (m : List Byte) (s : State), Absorbed m s →
    ∃ t, exec .final s = .next t ∧ t.phase = .done ∧ t.H = finalWords m ∧ t.dig = digestOf m ∧
      t.bitcnt = BitVec.ofNat 64 (8 * m.length)

/-- R72, R142, R143, R181: one hash operation over any message, from any state in which INIT is legal, answers with its digest and
does not end in FAULT. -/
def Obligations.HashOperationAnswersDigest : Prop :=
  ∀ (m : List Byte) (s : State), s.phase = .uninit ∨ s.phase = .done →
    endsWell (hashWords m) s = true ∧
    responses (hashWords m) s = List.replicate (m.length + 2) none ++ (digestOf m).toList.map some

/-- R84, R181: a hash operation never ends in FAULT, and its digest is a function of its message alone. -/
def Obligations.MessageDeterminesDigest : Prop :=
  ∀ (m : List Byte) (s u : State), s.phase = .uninit ∨ s.phase = .done → u.phase = .uninit ∨ u.phase = .done →
    ∃ t v, runWords (encode .init :: sliceWords m ++ [encode .final]) s = .next t ∧
      runWords (encode .init :: sliceWords m ++ [encode .final]) u = .next v ∧
      Good t ∧ Good v ∧ t.phase = .done ∧ v.phase = .done ∧
      t.dig = v.dig ∧ t.H = v.H ∧ t.bitcnt = v.bitcnt ∧ t.occ = v.occ

/-- R31, R192: after reset no command sequence can tell what `H`, `blk`, `occ`, `bitcnt` and `dig` held: the same answers, and both
runs end well or neither does, with the same cause (R181). -/
def Obligations.UnspecifiedRegistersAreUnobservable : Prop :=
  ∀ (ws : List CmdWord) (s u : State), s.phase = .uninit → u.phase = .uninit → s.cause = u.cause →
    responses ws s = responses ws u ∧
    ∃ t v, runWords ws s = .next t ∧ runWords ws u = .next v ∧ (Good t ↔ Good v) ∧ t.phase = v.phase ∧ t.cause = v.cause

/-! ### RDIG and RSTAT -/

/-- R150: RDIG in every phase, its encoding, its byte order where DONE's `dig` serialises H (the invariant of R22), and its
worked example. -/
def Obligations.RdigAnswersDigestByte : Prop :=
  (∀ (x : BitVec 5) (s : State), s.phase = .fault → exec (.rdig x) s = .next { s with resp := none }) ∧
  (∀ (x : BitVec 5) (s : State), s.phase = .uninit ∨ s.phase = .active →
    exec (.rdig x) s = .next { s with cause := .digestNotReady, phase := .fault, resp := none }) ∧
  (∀ (x : BitVec 5) (s : State), s.phase = .done →
    exec (.rdig x) s = .next { s with resp := some s.dig[x.toNat] }) ∧
  (∀ s : State, s.phase = .done → DigestInv s →
    (∃ t, exec (.rdig 0) s = .next t ∧ t.resp = some (s.H[0].extractLsb' 24 8)) ∧
    ∃ t, exec (.rdig 31) s = .next t ∧ t.resp = some (s.H[7].extractLsb' 0 8)) ∧
  (∀ (w : CmdWord) (s : State), 0x0420 ≤ w.toNat → w.toNat ≤ 0x04FF → s.phase ≠ .fault →
    acceptWord w s = .next { s with cause := .illegalCmd, phase := .fault, resp := none }) ∧
  (∀ x : BitVec 5, decode (0x0400 ||| x.setWidth 16) = .ok (.rdig x)) ∧
  responses [0x0100, 0x0300, 0x0400, 0x041F] State.reset = [none, none, some 0xe3, some 0x55] ∧
  endsWell [0x0100, 0x0300, 0x0400, 0x041F] State.reset = true

/-- R151: RDIG before DONE raises DIGEST_NOT_READY (cause 5) and returns no data. -/
def Obligations.RdigBeforeDoneFaults : Prop :=
  causeCode .digestNotReady = 5 ∧
  ∀ (x : BitVec 5) (s : State), s.phase = .uninit ∨ s.phase = .active →
    ∃ t, exec (.rdig x) s = .next t ∧ t.phase = .fault ∧ t.cause = .digestNotReady ∧ t.resp = none

/-- R72, R150: the 32 responses of RDIG.ALL in DONE are the digest, and the engine is as it was. -/
def Obligations.RdigAllAnswersDigest : Prop :=
  ∀ s : State, s.phase = .done →
    endsWell rdigAllWords s = true ∧
    responses rdigAllWords s = s.dig.toList.map some ∧
    runWords rdigAllWords s = .next { s with resp := some s.dig[31] }

/-- R152: RSTAT answers STATUS in every phase, and its worked example. -/
def Obligations.RstatAnswersStatus : Prop :=
  (∀ s : State, exec .rstat s =
    .next { s with resp := some (((causeCode s.cause).setWidth 8 <<< 2) ||| (phaseCode s.phase).setWidth 8) }) ∧
  decode 0x0500 = .ok .rstat ∧
  (∀ (w : CmdWord) (s : State), 0x0501 ≤ w.toNat → w.toNat ≤ 0x05FF →
    (s.phase ≠ .fault → acceptWord w s = .next { s with cause := .illegalCmd, phase := .fault, resp := none }) ∧
    (s.phase = .fault → acceptWord w s = .next { s with resp := none })) ∧
  responses [0x0500, 0x0100, 0x0500, 0x0300, 0x0500, 0x0200, 0x0500] State.reset =
    [some 0x00, none, some 0x01, none, some 0x02, none, some 0x0F] ∧
  endsWell [0x0500, 0x0100, 0x0500, 0x0300, 0x0500] State.reset = true ∧
  endsWell [0x0500, 0x0100, 0x0500, 0x0300, 0x0500, 0x0200, 0x0500] State.reset = false

/-- R153: the fields of STATUS, the only values that occur where `cause != 0` iff `phase = FAULT` (R167), and that no command but
RSTAT answers with it. Its clause that phase and cause can be read back holds in every state: where the fields do not go together,
so that the engine never sends the byte, that they are read by themselves is the model's choice (log entry 13), U8 naming only cause
codes 6 and 7 and a non-zero top field. -/
def Obligations.StatusLayout : Prop :=
  (∀ s : State,
    (status s).extractLsb' 0 2 = phaseCode s.phase ∧ (status s).extractLsb' 2 3 = causeCode s.cause ∧
    (status s).extractLsb' 5 3 = 0) ∧
  (∀ s : State, phaseCode s.phase = (match s.phase with | .uninit => 0 | .active => 1 | .done => 2 | .fault => 3)) ∧
  (∀ s : State, causeCode s.cause =
    (match s.cause with
      | .none => 0 | .illegalCmd => 1 | .notInitialized => 2 | .alreadyFinalized => 3
      | .reinitActive => 4 | .digestNotReady => 5)) ∧
  (∀ s : State, FaultInv s → status s ∈ [0x00, 0x01, 0x02, 0x07, 0x0B, 0x0F, 0x13, (0x17 : Byte)]) ∧
  (∀ s : State, readStatus (status s) = some (s.phase, s.cause)) ∧
  ∀ (i : Instr) (s t : State), exec i s = .next t →
    (i = .rstat ∧ t.resp = some (status s)) ∨ (∃ x, i = .rdig x ∧ t.resp = some s.dig[x.toNat]) ∨ t.resp = none

/-- R154: where a poll answers DONE, every RDIG answers its byte of the state words FINAL left, big-endian. -/
def Obligations.PollIsTruthful : Prop :=
  ∀ (s t : State) (r : Byte), DigestInv s → exec .rstat s = .next t → t.resp = some r → r.extractLsb' 0 2 = 2 →
    ∀ (k : Fin 8) (j : Fin 4), ∃ u, exec (.rdig (BitVec.ofNat 5 (4 * k.val + j.val))) t = .next u ∧
      u.resp = some (s.H[k.val].extractLsb' (24 - 8 * j.val) 8) ∧ Good t ∧ Good u

/-- R155: the poll is harmless: in every phase it answers, changes no register and never faults, repeated it answers the same,
and no other word answers in FAULT. -/
def Obligations.PollIsHarmless : Prop :=
  (∀ (w : CmdWord) (s t : State), s.phase = .fault → acceptWord w s = .next t → t.resp.isSome = true → w = 0x0500) ∧
  ∀ s : State, ∃ t, exec .rstat s = .next t ∧ exec .rstat t = .next t ∧
    t.H = s.H ∧ t.blk = s.blk ∧ t.occ = s.occ ∧ t.bitcnt = s.bitcnt ∧ t.dig = s.dig ∧
    t.phase = s.phase ∧ t.cause = s.cause ∧ t.resp.isSome = true

/-- What RDIG and RSTAT leave unchanged, in every phase: every register but `phase` and `cause`, which only a faulting RDIG
writes (R32, R52). -/
def Obligations.ReadoutFrame : Prop :=
  ∀ (i : Instr) (s t : State), i = .rstat ∨ (∃ x, i = .rdig x) → exec i s = .next t →
    t.H = s.H ∧ (∀ a : Fin 64, t.blk[a.val] = s.blk[a.val]) ∧ t.occ = s.occ ∧ t.bitcnt = s.bitcnt ∧
    (∀ a : Fin 32, t.dig[a.val] = s.dig[a.val]) ∧ t.host = s.host ∧ t.resets = s.resets ∧
    (i = .rstat ∨ s.phase = .done ∨ s.phase = .fault → t.phase = s.phase ∧ t.cause = s.cause)

/-! ### Faults -/

/-- R19: the phase table, every phase against every command and every illegal word. -/
def Obligations.PhaseTableHolds : Prop :=
  ∀ (w : CmdWord) (s : State), ∃ t, acceptWord w s = .next t ∧ t.phase = phaseTable s.phase (decode w) ∧
    t.cause = (faultTable s.phase (decode w)).getD s.cause

/-- R166: fault entry writes `cause`, `phase` and the response, and nothing else; no partly executed command exists. -/
def Obligations.FaultEntryIsPrecise : Prop :=
  ∀ (w : CmdWord) (s t : State), s.phase ≠ .fault → acceptWord w s = .next t → t.phase = .fault →
    faultTable s.phase (decode w) = some t.cause ∧ t = { s with cause := t.cause, phase := .fault, resp := none }

/-- R168: in FAULT every word but `0x0500` has no effect and no response; `0x0500` answers STATUS. -/
def Obligations.FaultHaltsEngine : Prop :=
  ∀ (w : CmdWord) (s : State), s.phase = .fault →
    acceptWord w s = .next { s with resp := if w = 0x0500 then some (status s) else none }

/-- R164: the order of the checks (FAULT, decode, sequence), each sequence fault exactly where its condition holds, and the
rule's two examples. -/
def Obligations.FaultPriority : Prop :=
  (∀ (w : CmdWord) (s : State), s.phase = .fault →
    ∃ t, acceptWord w s = .next t ∧ t.phase = .fault ∧ t.cause = s.cause) ∧
  (∀ (w : CmdWord) (s : State), s.phase ≠ .fault → (∀ i, decode w ≠ .ok i) →
    ∃ t, acceptWord w s = .next t ∧ t.phase = .fault ∧ t.cause = .illegalCmd) ∧
  (∀ (w : CmdWord) (i : Instr) (s : State), s.phase ≠ .fault → decode w = .ok i →
    ∃ t, acceptWord w s = .next t ∧
      (t.phase = .fault ∧ t.cause = .notInitialized ↔ s.phase = .uninit ∧ ((∃ b, i = .update b) ∨ i = .final)) ∧
      (t.phase = .fault ∧ t.cause = .alreadyFinalized ↔ s.phase = .done ∧ ((∃ b, i = .update b) ∨ i = .final)) ∧
      (t.phase = .fault ∧ t.cause = .reinitActive ↔ s.phase = .active ∧ i = .init) ∧
      (t.phase = .fault ∧ t.cause = .digestNotReady ↔ (s.phase = .uninit ∨ s.phase = .active) ∧ ∃ x, i = .rdig x) ∧
      ¬(t.phase = .fault ∧ (t.cause = .illegalCmd ∨ t.cause = .none))) ∧
  (∀ s : State, s.phase = .uninit → ∃ t, acceptWord 0x0301 s = .next t ∧ t.phase = .fault ∧ t.cause = .illegalCmd) ∧
  ∀ s : State, s.phase = .active → ∃ t, acceptWord 0x0420 s = .next t ∧ t.phase = .fault ∧ t.cause = .illegalCmd

/-- R160: a fault is a function of the word and of `phase` only, never of data, `occ`, `bitcnt` or TRANSFORM. -/
def Obligations.FaultDependsOnWordAndPhaseOnly : Prop :=
  ∀ (w : CmdWord) (s u t v : State), s.phase = u.phase → s.phase ≠ .fault →
    acceptWord w s = .next t → acceptWord w u = .next v →
      (t.phase = .fault ↔ v.phase = .fault) ∧ (t.phase = .fault → t.cause = v.cause ∧ t.cause ≠ .none)

/-- R169, R190: only the reset event leaves FAULT, and only it returns to UNINIT. R181: a run of commands has an ending, good or
faulted and never both; from FAULT it ends faulted with the first cause; a run that ends well was well after every prefix of it;
and, where `cause != 0` iff `phase = FAULT` (R167), it ends well iff no fault is recorded. -/
def Obligations.OnlyResetLeavesFault : Prop :=
  (∀ s t : State, step s = .next t →
    (s.phase = .fault → t.phase ≠ .fault → ∃ rest, s.host = .reset :: rest) ∧
    (s.phase ≠ .uninit → t.phase = .uninit → ∃ rest, s.host = .reset :: rest)) ∧
  (∀ (ws : List CmdWord) (s : State), ∃ t, runWords ws s = .next t ∧
    (Good t → ending (runWords ws s) = .good t ∧ endsWell ws s = true) ∧
    (¬Good t → ending (runWords ws s) = .faulted t.cause t ∧ endsWell ws s = false) ∧
    (s.phase = .fault → ¬Good t ∧ t.cause = s.cause) ∧
    (FaultInv s → (Good t ↔ t.cause = .none))) ∧
  ∀ (ws vs : List CmdWord) (s : State), endsWell (ws ++ vs) s = true → endsWell ws s = true

/-! ### Invariants -/

/-- R167: every step keeps `cause != 0` iff `phase = FAULT`; the code is then one of 1 to 5. -/
def Obligations.StepKeepsFaultInvariant : Prop :=
  ∀ s t : State, FaultInv s → step s = .next t →
    FaultInv t ∧ (t.phase = .fault → 1 ≤ (causeCode t.cause).toNat ∧ (causeCode t.cause).toNat ≤ 5)

/-- R22: every step keeps "in DONE, `dig` is the complete serialisation of H"; no command but FINAL writes `dig`; after INIT from
DONE the old digest cannot be read. -/
def Obligations.StepKeepsDigestInvariant : Prop :=
  (∀ s t : State, DigestInv s → step s = .next t → DigestInv t) ∧
  (∀ (i : Instr) (s t : State), i ≠ .final → exec i s = .next t → t.dig = s.dig) ∧
  ∀ (s t u : State) (x : BitVec 5), s.phase = .done → exec .init s = .next t → exec (.rdig x) t = .next u →
    t.phase = .active ∧ u.phase = .fault ∧ u.cause = .digestNotReady ∧ u.resp = none

/-- R15, R131, R136, R140: every step keeps the counter's invariant: whole blocks in ACTIVE, whole bytes and the length field in
DONE. -/
def Obligations.StepKeepsCounterInvariant : Prop :=
  ∀ s t : State, CounterInv s → step s = .next t → CounterInv t

/-- R30: the state after reset, as far as the spec gives it, and it meets the invariants. -/
def Obligations.ResetMeetsInvariants : Prop :=
  State.reset.phase = .uninit ∧ State.reset.cause = .none ∧ doneFlag State.reset = false ∧ faultFlag State.reset = false ∧
  status State.reset = 0x00 ∧ FaultInv State.reset ∧ DigestInv State.reset ∧ CounterInv State.reset
end

