-- ==== Sys2Proof/Laws/Decode.lean ====
section
/-! SUPPORT. The opcode map's match and mask read as conditions on `op` and `imm`, so that no proof works on 16 bits at once. -/

namespace Sys2Proof

/-- A command word is `op || imm` (R61). -/
theorem opOf_append_immOf (w : CmdWord) : opOf w ++ immOf w = w := by
  apply BitVec.eq_of_getLsbD_eq
  intro i hi
  simp only [opOf, immOf, BitVec.getLsbD_append, BitVec.getLsbD_extractLsb']
  by_cases h : i < 8
  · simp [h]
  · simp [h, show i - 8 < 8 by omega, show 8 + (i - 8) = i by omega]

@[simp] theorem opOf_append (h l : Byte) : opOf (h ++ l) = h := by
  apply BitVec.eq_of_getLsbD_eq
  intro i hi
  simp only [opOf, BitVec.getLsbD_append, BitVec.getLsbD_extractLsb']
  simp [hi]

@[simp] theorem immOf_append (h l : Byte) : immOf (h ++ l) = l := by
  apply BitVec.eq_of_getLsbD_eq
  intro i hi
  simp only [immOf, BitVec.getLsbD_append, BitVec.getLsbD_extractLsb']
  simp [hi]

/-- Two words are equal when their opcodes and their operands are. -/
theorem word_append_inj (h l h' l' : Byte) : h ++ l = h' ++ l' ↔ h = h' ∧ l = l' := by
  constructor
  · intro e
    have a := congrArg opOf e
    have b := congrArg immOf e
    simp only [opOf_append, immOf_append] at a b
    exact ⟨a, b⟩
  · rintro ⟨rfl, rfl⟩
    rfl

/-- A row's test, byte by byte. -/
theorem matchesRow_append (h l mh ml vh vl : Byte) :
    matchesRow (h ++ l) (mh ++ ml) (vh ++ vl) = (h &&& mh == vh && l &&& ml == vl) := by
  rw [matchesRow, BitVec.and_append, Bool.eq_iff_iff]
  simp only [beq_iff_eq, Bool.and_eq_true]
  exact word_append_inj ..

/-- Decoding by `op` and `imm`. -/
theorem decode_fields (w : CmdWord) : decode w =
    if opOf w = 1 then (if immOf w = 0 then .ok .init else .error .initOperand)
    else if opOf w = 2 then .ok (.update (immOf w))
    else if opOf w = 3 then (if immOf w = 0 then .ok .final else .error .finalOperand)
    else if opOf w = 4 then (if (immOf w).toNat < 32 then .ok (.rdig ((immOf w).extractLsb' 0 5)) else .error .rdigIndex)
    else if opOf w = 5 then (if immOf w = 0 then .ok .rstat else .error .rstatOperand)
    else .error .opcode := by
  have full : ∀ b : Byte, b &&& 255#8 = b := by decide +kernel
  have none : ∀ b : Byte, b &&& 0#8 = 0#8 := by decide +kernel
  have top : ∀ b : Byte, b &&& 0xE0#8 = 0#8 ↔ b.toNat < 32 := by decide +kernel
  obtain ⟨h, l, rfl⟩ : ∃ h l : Byte, w = h ++ l := ⟨_, _, (opOf_append_immOf w).symm⟩
  have e1 : matchesRow (h ++ l) 0xFFFF 0x0100 = (h == 1 && l == 0) := by
    have := matchesRow_append h l 0xFF#8 0xFF#8 1#8 0#8
    rw [full, full] at this; exact this
  have e2 : matchesRow (h ++ l) 0xFF00 0x0200 = (h == 2) := by
    have := matchesRow_append h l 0xFF#8 0x00#8 2#8 0#8
    rw [full, none] at this; rw [← Bool.and_true (h == 2)]; exact this
  have e3 : matchesRow (h ++ l) 0xFFFF 0x0300 = (h == 3 && l == 0) := by
    have := matchesRow_append h l 0xFF#8 0xFF#8 3#8 0#8
    rw [full, full] at this; exact this
  have e4 : matchesRow (h ++ l) 0xFFE0 0x0400 = (h == 4 && (l &&& 0xE0#8 == 0#8)) := by
    have := matchesRow_append h l 0xFF#8 0xE0#8 4#8 0#8
    rw [full] at this; exact this
  have e5 : matchesRow (h ++ l) 0xFFFF 0x0500 = (h == 5 && l == 0) := by
    have := matchesRow_append h l 0xFF#8 0xFF#8 5#8 0#8
    rw [full, full] at this; exact this
  have t := top l
  rw [decode, e1, e2, e3, e4, e5, reservedRange, opOf_append, immOf_append]
  simp only [Bool.and_eq_true, beq_iff_eq, t]
  repeat' split
  all_goals first | rfl | simp_all

end Sys2Proof
end

