-- ==== Sys2Proof/Laws/State.lean ====
section
/-! SUPPORT. One lemma per field per update of the state, each true by `rfl`, so that no proof unfolds a record update. -/

namespace Sys2Proof.Machine

section respond
variable (r : Option Byte) (s : State)

@[simp] theorem respond_H : (respond r s).H = s.H := rfl
@[simp] theorem respond_blk : (respond r s).blk = s.blk := rfl
@[simp] theorem respond_occ : (respond r s).occ = s.occ := rfl
@[simp] theorem respond_bitcnt : (respond r s).bitcnt = s.bitcnt := rfl
@[simp] theorem respond_dig : (respond r s).dig = s.dig := rfl
@[simp] theorem respond_phase : (respond r s).phase = s.phase := rfl
@[simp] theorem respond_cause : (respond r s).cause = s.cause := rfl
@[simp] theorem respond_resp : (respond r s).resp = r := rfl
@[simp] theorem respond_host : (respond r s).host = s.host := rfl
@[simp] theorem respond_resets : (respond r s).resets = s.resets := rfl

end respond

section raise
variable (c : Cause) (s : State)

@[simp] theorem raise_H : (raise c s).H = s.H := rfl
@[simp] theorem raise_blk : (raise c s).blk = s.blk := rfl
@[simp] theorem raise_occ : (raise c s).occ = s.occ := rfl
@[simp] theorem raise_bitcnt : (raise c s).bitcnt = s.bitcnt := rfl
@[simp] theorem raise_dig : (raise c s).dig = s.dig := rfl
@[simp] theorem raise_phase : (raise c s).phase = .fault := rfl
@[simp] theorem raise_cause : (raise c s).cause = c := rfl
@[simp] theorem raise_resp : (raise c s).resp = none := rfl
@[simp] theorem raise_host : (raise c s).host = s.host := rfl
@[simp] theorem raise_resets : (raise c s).resets = s.resets := rfl

end raise

section ignore
variable (s : State)

@[simp] theorem ignore_H : (ignore s).H = s.H := rfl
@[simp] theorem ignore_blk : (ignore s).blk = s.blk := rfl
@[simp] theorem ignore_occ : (ignore s).occ = s.occ := rfl
@[simp] theorem ignore_bitcnt : (ignore s).bitcnt = s.bitcnt := rfl
@[simp] theorem ignore_dig : (ignore s).dig = s.dig := rfl
@[simp] theorem ignore_phase : (ignore s).phase = s.phase := rfl
@[simp] theorem ignore_cause : (ignore s).cause = s.cause := rfl
@[simp] theorem ignore_resp : (ignore s).resp = none := rfl
@[simp] theorem ignore_host : (ignore s).host = s.host := rfl
@[simp] theorem ignore_resets : (ignore s).resets = s.resets := rfl

end ignore

section resetEvent
variable (s : State)

@[simp] theorem resetEvent_H : (resetEvent s).H = Config.resetH s.resets := rfl
@[simp] theorem resetEvent_blk : (resetEvent s).blk = Config.resetBlk s.resets := rfl
@[simp] theorem resetEvent_occ : (resetEvent s).occ = Config.resetOcc s.resets := rfl
@[simp] theorem resetEvent_bitcnt : (resetEvent s).bitcnt = Config.resetBitcnt s.resets := rfl
@[simp] theorem resetEvent_dig : (resetEvent s).dig = Config.resetDig s.resets := rfl
@[simp] theorem resetEvent_phase : (resetEvent s).phase = .uninit := rfl
@[simp] theorem resetEvent_cause : (resetEvent s).cause = .none := rfl
@[simp] theorem resetEvent_resp : (resetEvent s).resp = none := rfl
@[simp] theorem resetEvent_host : (resetEvent s).host = s.host := rfl
@[simp] theorem resetEvent_resets : (resetEvent s).resets = s.resets + 1 := rfl

end resetEvent

section placeWord
variable (w : CmdWord) (s : State)

@[simp] theorem placeWord_H : (placeWord w s).H = s.H := rfl
@[simp] theorem placeWord_blk : (placeWord w s).blk = s.blk := rfl
@[simp] theorem placeWord_occ : (placeWord w s).occ = s.occ := rfl
@[simp] theorem placeWord_bitcnt : (placeWord w s).bitcnt = s.bitcnt := rfl
@[simp] theorem placeWord_dig : (placeWord w s).dig = s.dig := rfl
@[simp] theorem placeWord_phase : (placeWord w s).phase = s.phase := rfl
@[simp] theorem placeWord_cause : (placeWord w s).cause = s.cause := rfl
@[simp] theorem placeWord_resp : (placeWord w s).resp = s.resp := rfl
@[simp] theorem placeWord_host : (placeWord w s).host = .issue w :: s.host := rfl
@[simp] theorem placeWord_resets : (placeWord w s).resets = s.resets := rfl

end placeWord

section startOperation
variable (s : State)

@[simp] theorem startOperation_H : (startOperation s).H = iv := rfl
@[simp] theorem startOperation_blk : (startOperation s).blk = s.blk := rfl
@[simp] theorem startOperation_occ : (startOperation s).occ = 0 := rfl
@[simp] theorem startOperation_bitcnt : (startOperation s).bitcnt = 0 := rfl
@[simp] theorem startOperation_dig : (startOperation s).dig = s.dig := rfl
@[simp] theorem startOperation_phase : (startOperation s).phase = .active := rfl
@[simp] theorem startOperation_cause : (startOperation s).cause = s.cause := rfl
@[simp] theorem startOperation_resp : (startOperation s).resp = none := rfl
@[simp] theorem startOperation_host : (startOperation s).host = s.host := rfl
@[simp] theorem startOperation_resets : (startOperation s).resets = s.resets := rfl

end startOperation

section transform
variable (s : State)

@[simp] theorem transform_H : (transform s).H = compress s.H s.blk := rfl
@[simp] theorem transform_blk : (transform s).blk = s.blk := rfl
@[simp] theorem transform_occ : (transform s).occ = s.occ := rfl
@[simp] theorem transform_bitcnt : (transform s).bitcnt = s.bitcnt := rfl
@[simp] theorem transform_dig : (transform s).dig = s.dig := rfl
@[simp] theorem transform_phase : (transform s).phase = s.phase := rfl
@[simp] theorem transform_cause : (transform s).cause = s.cause := rfl
@[simp] theorem transform_resp : (transform s).resp = s.resp := rfl
@[simp] theorem transform_host : (transform s).host = s.host := rfl
@[simp] theorem transform_resets : (transform s).resets = s.resets := rfl

end transform

section countTail
variable (s : State)

@[simp] theorem countTail_H : (countTail s).H = s.H := rfl
@[simp] theorem countTail_blk : (countTail s).blk = s.blk := rfl
@[simp] theorem countTail_occ : (countTail s).occ = s.occ := rfl
@[simp] theorem countTail_bitcnt : (countTail s).bitcnt = s.bitcnt + 8 * s.occ.setWidth 64 := rfl
@[simp] theorem countTail_dig : (countTail s).dig = s.dig := rfl
@[simp] theorem countTail_phase : (countTail s).phase = s.phase := rfl
@[simp] theorem countTail_cause : (countTail s).cause = s.cause := rfl
@[simp] theorem countTail_resp : (countTail s).resp = s.resp := rfl
@[simp] theorem countTail_host : (countTail s).host = s.host := rfl
@[simp] theorem countTail_resets : (countTail s).resets = s.resets := rfl

end countTail

section mark
variable (s : State)

@[simp] theorem mark_H : (mark s).H = s.H := rfl
@[simp] theorem mark_blk : (mark s).blk = storeBE s.blk (blkAddress s) 1 (0x80 : Byte) := rfl
@[simp] theorem mark_occ : (mark s).occ = s.occ := rfl
@[simp] theorem mark_bitcnt : (mark s).bitcnt = s.bitcnt := rfl
@[simp] theorem mark_dig : (mark s).dig = s.dig := rfl
@[simp] theorem mark_phase : (mark s).phase = s.phase := rfl
@[simp] theorem mark_cause : (mark s).cause = s.cause := rfl
@[simp] theorem mark_resp : (mark s).resp = s.resp := rfl
@[simp] theorem mark_host : (mark s).host = s.host := rfl
@[simp] theorem mark_resets : (mark s).resets = s.resets := rfl

end mark

section zeroA
variable (s : State)

@[simp] theorem zeroA_H : (zeroA s).H = s.H := rfl
@[simp] theorem zeroA_blk : (zeroA s).blk = zeroFill s.blk (blkAddress s + 1) 56 := rfl
@[simp] theorem zeroA_occ : (zeroA s).occ = s.occ := rfl
@[simp] theorem zeroA_bitcnt : (zeroA s).bitcnt = s.bitcnt := rfl
@[simp] theorem zeroA_dig : (zeroA s).dig = s.dig := rfl
@[simp] theorem zeroA_phase : (zeroA s).phase = s.phase := rfl
@[simp] theorem zeroA_cause : (zeroA s).cause = s.cause := rfl
@[simp] theorem zeroA_resp : (zeroA s).resp = s.resp := rfl
@[simp] theorem zeroA_host : (zeroA s).host = s.host := rfl
@[simp] theorem zeroA_resets : (zeroA s).resets = s.resets := rfl

end zeroA

section zeroB
variable (s : State)

@[simp] theorem zeroB_H : (zeroB s).H = s.H := rfl
@[simp] theorem zeroB_blk : (zeroB s).blk = zeroFill s.blk (blkAddress s + 1) 64 := rfl
@[simp] theorem zeroB_occ : (zeroB s).occ = s.occ := rfl
@[simp] theorem zeroB_bitcnt : (zeroB s).bitcnt = s.bitcnt := rfl
@[simp] theorem zeroB_dig : (zeroB s).dig = s.dig := rfl
@[simp] theorem zeroB_phase : (zeroB s).phase = s.phase := rfl
@[simp] theorem zeroB_cause : (zeroB s).cause = s.cause := rfl
@[simp] theorem zeroB_resp : (zeroB s).resp = s.resp := rfl
@[simp] theorem zeroB_host : (zeroB s).host = s.host := rfl
@[simp] theorem zeroB_resets : (zeroB s).resets = s.resets := rfl

end zeroB

section zeroC
variable (s : State)

@[simp] theorem zeroC_H : (zeroC s).H = s.H := rfl
@[simp] theorem zeroC_blk : (zeroC s).blk = zeroFill s.blk 0 56 := rfl
@[simp] theorem zeroC_occ : (zeroC s).occ = s.occ := rfl
@[simp] theorem zeroC_bitcnt : (zeroC s).bitcnt = s.bitcnt := rfl
@[simp] theorem zeroC_dig : (zeroC s).dig = s.dig := rfl
@[simp] theorem zeroC_phase : (zeroC s).phase = s.phase := rfl
@[simp] theorem zeroC_cause : (zeroC s).cause = s.cause := rfl
@[simp] theorem zeroC_resp : (zeroC s).resp = s.resp := rfl
@[simp] theorem zeroC_host : (zeroC s).host = s.host := rfl
@[simp] theorem zeroC_resets : (zeroC s).resets = s.resets := rfl

end zeroC

section putLength
variable (s : State)

@[simp] theorem putLength_H : (putLength s).H = s.H := rfl
@[simp] theorem putLength_blk : (putLength s).blk = storeBE s.blk 56 8 s.bitcnt := rfl
@[simp] theorem putLength_occ : (putLength s).occ = s.occ := rfl
@[simp] theorem putLength_bitcnt : (putLength s).bitcnt = s.bitcnt := rfl
@[simp] theorem putLength_dig : (putLength s).dig = s.dig := rfl
@[simp] theorem putLength_phase : (putLength s).phase = s.phase := rfl
@[simp] theorem putLength_cause : (putLength s).cause = s.cause := rfl
@[simp] theorem putLength_resp : (putLength s).resp = s.resp := rfl
@[simp] theorem putLength_host : (putLength s).host = s.host := rfl
@[simp] theorem putLength_resets : (putLength s).resets = s.resets := rfl

end putLength

section putDigest
variable (s : State)

@[simp] theorem putDigest_H : (putDigest s).H = s.H := rfl
@[simp] theorem putDigest_blk : (putDigest s).blk = s.blk := rfl
@[simp] theorem putDigest_occ : (putDigest s).occ = s.occ := rfl
@[simp] theorem putDigest_bitcnt : (putDigest s).bitcnt = s.bitcnt := rfl
@[simp] theorem putDigest_dig : (putDigest s).dig = serialise s.H s.dig := rfl
@[simp] theorem putDigest_phase : (putDigest s).phase = s.phase := rfl
@[simp] theorem putDigest_cause : (putDigest s).cause = s.cause := rfl
@[simp] theorem putDigest_resp : (putDigest s).resp = s.resp := rfl
@[simp] theorem putDigest_host : (putDigest s).host = s.host := rfl
@[simp] theorem putDigest_resets : (putDigest s).resets = s.resets := rfl

end putDigest

end Sys2Proof.Machine
end

