-- ==== Sys2Proof/Laws/Ops.lean ====
section
/-! SUPPORT. What each shared operation over BLK and DIG does, once: the byte a store or a fill leaves at every address, the
fill as a loop, the load as a concatenation. -/

namespace Sys2Proof.Machine

/-- The one byte of a byte is itself. -/
@[simp] theorem byteBE_one (b : Byte) : byteBE b 1 0 = b := by
  simp [byteBE]

/-- A store leaves byte `j` of the value at `addr + j` and every other byte as it was. -/
theorem storeBE_get (mem : Vector Byte m) (addr n : Nat) (v : BitVec w) (a : Nat) (h : a < m) :
    (storeBE mem addr n v)[a] = if addr ≤ a ∧ a < addr + n then byteBE v n (a - addr) else mem[a] := by
  simp [storeBE]

/-- A read after a store, inside the stored bytes. -/
theorem storeBE_get_inside (mem : Vector Byte m) (addr n : Nat) (v : BitVec w) (j : Nat) (hj : j < n)
    (h : addr + j < m) : (storeBE mem addr n v)[addr + j] = byteBE v n j := by
  rw [storeBE_get, if_pos (by omega)]
  congr 1
  omega

/-- A read after a store, outside the stored bytes. -/
theorem storeBE_get_outside (mem : Vector Byte m) (addr n : Nat) (v : BitVec w) (a : Nat) (h : a < m)
    (ha : a < addr ∨ addr + n ≤ a) : (storeBE mem addr n v)[a] = mem[a] := by
  rw [storeBE_get, if_neg (by omega)]

/-- A one-byte store. -/
theorem storeBE_byte_get (mem : Vector Byte m) (addr : Nat) (b : Byte) (a : Nat) (h : a < m) :
    (storeBE mem addr 1 b)[a] = if a = addr then b else mem[a] := by
  rw [storeBE_get]
  by_cases e : a = addr
  · subst e
    simp
  · rw [if_neg (by omega), if_neg e]

/-- A fill leaves zero at the addresses of its range and every other byte as it was. -/
theorem zeroFill_get (b : Block) (lo hi a : Nat) (h : a < 64) :
    (zeroFill b lo hi)[a] = if lo ≤ a ∧ a < hi then 0 else b[a] := by
  simp [zeroFill]

/-- The pseudocode's loop `while i < hi: MemWrite(i, 1, 0x00); i <- i + 1`, `k` turns of it from `i` (R130). -/
def zeroLoop (b : Block) (i : Nat) : Nat → Block
  | 0 => b
  | k + 1 => zeroLoop (storeBE b i 1 (0 : Byte)) (i + 1) k

/-- The fill in closed form is the pseudocode's loop (R130, R133, R134). -/
theorem zeroFill_eq_loop (b : Block) (i k : Nat) : zeroFill b i (i + k) = zeroLoop b i k := by
  induction k generalizing b i with
  | zero =>
    ext a h
    rw [zeroFill_get, if_neg (by omega)]
    rfl
  | succ k ih =>
    rw [zeroLoop, ← ih]
    ext a h
    simp only [zeroFill_get, storeBE_byte_get]
    split <;> split <;> (try split) <;> first | rfl | omega

/-- The word load is the concatenation of its four bytes, first byte most significant (R44, 00_scope section 5). -/
theorem loadWord_eq_append (b : Block) (i : Fin 16) :
    loadWord b i = b[4 * i.val] ++ b[4 * i.val + 1] ++ b[4 * i.val + 2] ++ b[4 * i.val + 3] := by
  simp only [loadWord]
  generalize b[4 * i.val] = p
  generalize b[4 * i.val + 1] = q
  generalize b[4 * i.val + 2] = r
  generalize b[4 * i.val + 3] = s
  apply BitVec.eq_of_getLsbD_eq
  intro n hn
  simp only [BitVec.getLsbD_or, BitVec.getLsbD_shiftLeft, BitVec.getLsbD_setWidth, BitVec.getLsbD_append]
  have := @BitVec.getLsbD_of_ge
  grind

/-- The serialised digest: byte `4k + j` is byte `j` of `H[k]` (R46). -/
theorem serialise_eq (H : StateWords) (d : Digest) :
    serialise H d = Vector.ofFn fun a => byteBE H[a.val / 4] 4 (a.val % 4) := by
  have order : List.finRange 8 = [0, 1, 2, 3, 4, 5, 6, 7] := by decide
  rw [serialise]
  ext a h
  simp only [order, List.foldl, storeBE_get, Vector.getElem_ofFn]
  simp
  interval_cases a <;> rfl

/-- Byte `4k + j` of the serialised digest. -/
theorem serialise_get (H : StateWords) (d : Digest) (k : Fin 8) (j : Fin 4) :
    (serialise H d)[4 * k.val + j.val] = byteBE H[k.val] 4 j.val := by
  rw [serialise_eq]
  have hk : (4 * k.val + j.val) / 4 = k.val := by omega
  have hj : (4 * k.val + j.val) % 4 = j.val := by omega
  simp [hk, hj]

end Sys2Proof.Machine
end

