-- ==== Sys2Proof/Laws/Meanings.lean ====
section
/-! SUPPORT. Each meaning by phase (R19), and once everything a command can do. -/

namespace Sys2Proof.Machine

section init
variable {s : State}

theorem execInit_fault (h : s.phase = .fault) : execInit s = .next (ignore s) := by
  simp [execInit, h]

theorem execInit_active (h : s.phase = .active) : execInit s = .next (raise .reinitActive s) := by
  simp [execInit, h]

theorem execInit_starts (h : s.phase = .uninit ∨ s.phase = .done) : execInit s = .next (startOperation s) := by
  rcases h with h | h <;> simp [execInit, h]

end init

section update
variable {s : State} (b : Byte)

theorem execUpdate_fault (h : s.phase = .fault) : execUpdate b s = .next (ignore s) := by
  simp [execUpdate, h]

theorem execUpdate_uninit (h : s.phase = .uninit) : execUpdate b s = .next (raise .notInitialized s) := by
  simp [execUpdate, h]

theorem execUpdate_done (h : s.phase = .done) : execUpdate b s = .next (raise .alreadyFinalized s) := by
  simp [execUpdate, h]

theorem execUpdate_active (h : s.phase = .active) : execUpdate b s = .next (absorbByte b s) := by
  simp [execUpdate, h]

end update

section final
variable {s : State}

theorem execFinal_fault (h : s.phase = .fault) : execFinal s = .next (ignore s) := by
  simp [execFinal, h]

theorem execFinal_uninit (h : s.phase = .uninit) : execFinal s = .next (raise .notInitialized s) := by
  simp [execFinal, h]

theorem execFinal_done (h : s.phase = .done) : execFinal s = .next (raise .alreadyFinalized s) := by
  simp [execFinal, h]

theorem execFinal_active (h : s.phase = .active) : execFinal s = .next (finishOperation s) := by
  simp [execFinal, h]

end final

section rdig
variable {s : State} (x : BitVec 5)

theorem execRdig_fault (h : s.phase = .fault) : execRdig x s = .next (ignore s) := by
  simp [execRdig, h]

theorem execRdig_early (h : s.phase = .uninit ∨ s.phase = .active) :
    execRdig x s = .next (raise .digestNotReady s) := by
  rcases h with h | h <;> simp [execRdig, h]

theorem execRdig_done (h : s.phase = .done) :
    execRdig x s = .next (respond (some s.dig[(digAddress x).val]) s) := by
  simp [execRdig, h]

end rdig

section absorb
variable (b : Byte) (s : State)

/-- UPDATE's effect below the block boundary (R90). -/
theorem absorbByte_below (h : s.occ ≠ 63) :
    absorbByte b s =
      { s with blk := storeBE s.blk s.occ.toNat 1 b, occ := s.occ + 1, resp := none } := by
  simp only [absorbByte, if_neg h]
  rfl

/-- UPDATE's effect at the block boundary (R91). -/
theorem absorbByte_boundary (h : s.occ = 63) :
    absorbByte b s =
      { s with
        H := compress s.H (storeBE s.blk s.occ.toNat 1 b)
        blk := storeBE s.blk s.occ.toNat 1 b
        bitcnt := s.bitcnt + 512
        occ := 0
        resp := none } := by
  simp only [absorbByte, if_pos h]
  rfl

end absorb

section finish
variable {s : State}

/-- The one-block fill (R133). -/
theorem fillToLength_oneBlock (h : s.occ.toNat < 56) : fillToLength s = zeroA s := by
  have small : s.occ < 56 := by rw [BitVec.lt_def]; exact h
  rw [fillToLength, if_pos small]

/-- The two-block fill (R134). -/
theorem fillToLength_twoBlocks (h : 56 ≤ s.occ.toNat) : fillToLength s = zeroC (transform (zeroB s)) := by
  have large : ¬ s.occ < 56 := by rw [BitVec.lt_def]; exact Nat.not_lt.2 h
  rw [fillToLength, if_neg large]

@[simp] theorem fillToLength_bitcnt (s : State) : (fillToLength s).bitcnt = s.bitcnt := by
  rw [fillToLength]
  split <;> simp

@[simp] theorem fillToLength_occ (s : State) : (fillToLength s).occ = s.occ := by
  rw [fillToLength]
  split <;> simp

@[simp] theorem fillToLength_dig (s : State) : (fillToLength s).dig = s.dig := by
  rw [fillToLength]
  split <;> simp

@[simp] theorem fillToLength_cause (s : State) : (fillToLength s).cause = s.cause := by
  rw [fillToLength]
  split <;> simp

@[simp] theorem fillToLength_host (s : State) : (fillToLength s).host = s.host := by
  rw [fillToLength]
  split <;> simp

@[simp] theorem fillToLength_resets (s : State) : (fillToLength s).resets = s.resets := by
  rw [fillToLength]
  split <;> simp

end finish

/-- Everything a command can do (R19): be ignored, fault, start, absorb, finish, or answer. -/
theorem exec_cases {i : Instr} {s t : State} (h : exec i s = .next t) :
    (s.phase = .fault ∧ t = ignore s) ∨
    (∃ c, s.phase ≠ .fault ∧ c ≠ .none ∧ t = raise c s) ∨
    (i = .init ∧ (s.phase = .uninit ∨ s.phase = .done) ∧ t = startOperation s) ∨
    (∃ b, i = .update b ∧ s.phase = .active ∧ t = absorbByte b s) ∨
    (i = .final ∧ s.phase = .active ∧ t = finishOperation s) ∨
    (∃ x, i = .rdig x ∧ s.phase = .done ∧ t = respond (some s.dig[(digAddress x).val]) s) ∨
    (i = .rstat ∧ t = respond (some (status s)) s) := by
  cases i <;>
    simp only [exec, execInit, execUpdate, execFinal, execRdig, execRstat] at h <;>
    (try split at h) <;> cases h <;> simp_all <;> exact ⟨_, by decide, rfl⟩

end Sys2Proof.Machine
end

