-- ==== Sys2Proof/Laws/Message.lean ====
section
/-! SUPPORT. The blocks of a byte string and the fold of `Compress` over them (R94, R143). -/

namespace Sys2Proof.Machine

/-- Byte `a` of block `j`. -/
theorem blockAt_get (m : List Byte) (j a : Nat) (h : a < 64) : (blockAt m j)[a] = m.getD (64 * j + a) 0 := by
  simp [blockAt]

theorem compressBlocks_zero (m : List Byte) (H : StateWords) : compressBlocks m 0 H = H := by
  simp [compressBlocks]

/-- One block more. -/
theorem compressBlocks_succ (m : List Byte) (q : Nat) (H : StateWords) :
    compressBlocks m (q + 1) H = compress (compressBlocks m q H) (blockAt m q) := by
  simp [compressBlocks, List.range_succ, List.foldl_append]

/-- Blocks that lie inside a string do not see what is appended to it. -/
theorem blockAt_append (m n : List Byte) (j : Nat) (h : 64 * (j + 1) ≤ m.length) :
    blockAt (m ++ n) j = blockAt m j := by
  apply Vector.ext
  intro a ha
  rw [blockAt_get, blockAt_get, List.getD_append _ _ _ _ (by omega)]

theorem compressBlocks_append (m n : List Byte) (q : Nat) (H : StateWords) (h : 64 * q ≤ m.length) :
    compressBlocks (m ++ n) q H = compressBlocks m q H := by
  induction q with
  | zero => rw [compressBlocks_zero, compressBlocks_zero]
  | succ q ih => rw [compressBlocks_succ, compressBlocks_succ, ih (by omega), blockAt_append m n q h]

/-- The padded message's length: a whole number of blocks (R142). -/
theorem padded_length (m : List Byte) :
    (padded m).length = m.length + 1 + (119 - m.length % 64) % 64 + 8 := by
  simp [padded, be64]
  omega

theorem be64_get (v : Dword) (j : Nat) (h : j < 8) : (be64 v)[j]? = some (v.extractLsb' (56 - 8 * j) 8) := by
  simp [be64, h]

/-- Each byte of the padded message: message, marker, zeros, length (R142). -/
theorem padded_get (m : List Byte) (i : Nat) (h : i < (padded m).length) :
    (padded m).getD i 0 =
      if i < m.length then m.getD i 0
      else if i = m.length then 0x80
      else if i < (padded m).length - 8 then 0
      else (BitVec.ofNat 64 (8 * m.length)).extractLsb' (56 - 8 * (i - ((padded m).length - 8))) 8 := by
  rw [padded_length] at h ⊢
  rw [padded]
  by_cases inMessage : i < m.length
  · rw [if_pos inMessage, List.append_assoc, List.append_assoc, List.getD_append _ _ _ _ inMessage]
  rw [if_neg inMessage]
  by_cases atMarker : i = m.length
  · subst atMarker
    simp
  rw [if_neg atMarker]
  split
  · rw [List.getD_append _ _ _ _ (by simp; omega), List.getD_append_right _ _ _ _ (by simp; omega)]
    simp [List.getD_eq_getElem?_getD, List.getElem?_replicate]
    split <;> rfl
  · rw [List.getD_append_right _ _ _ _ (by simp; omega), List.getD_eq_getElem?_getD, be64_get]
    · simp
      congr 2
      simp
      omega
    · simp
      omega

/-- Blocks that lie inside the message are not changed by its padding. -/
theorem compressBlocks_padded (m : List Byte) (H : StateWords) :
    compressBlocks (padded m) (m.length / 64) H = compressBlocks m (m.length / 64) H := by
  rw [padded, List.append_assoc, List.append_assoc, compressBlocks_append _ _ _ _ (by omega)]

end Sys2Proof.Machine
end

