-- ==== Sys2Proof/Laws/PerInstr.lean ====
section
/-! SUPPORT. Lemmas per instruction: every command's word is legal and carries the opcode of its row (R64 to R66). -/

namespace Sys2Proof

/-- The opcode of a command's row (R65). -/
def opcodeOf : Instr → Byte
  | .init => 0x01
  | .update _ => 0x02
  | .final => 0x03
  | .rdig _ => 0x04
  | .rstat => 0x05

namespace Laws.EncodedWord

/-- The encoded word is legal and has the row's opcode. -/
def Statement (i : Instr) : Prop :=
  legal (encode i) = true ∧ opOf (encode i) = opcodeOf i

theorem init : Statement .init := by
  constructor <;> decide

theorem update (b : Byte) : Statement (.update b) := by
  have all : ∀ b : Byte, legal (encode (.update b)) = true ∧ opOf (encode (.update b)) = 0x02 := by decide +kernel
  exact all b

theorem final : Statement .final := by
  constructor <;> decide

theorem rdig (x : BitVec 5) : Statement (.rdig x) := by
  have all : ∀ x : BitVec 5, legal (encode (.rdig x)) = true ∧ opOf (encode (.rdig x)) = 0x04 := by decide +kernel
  exact all x

theorem rstat : Statement .rstat := by
  constructor <;> decide

end Laws.EncodedWord

end Sys2Proof
end

