-- ==== Sys2Proof/Laws/Runs.lean ====
section
/-! SUPPORT. Runs of command words, one word at a time and in two parts, and how they end (R54, R181). -/

namespace Sys2Proof.Machine

theorem runWords_nil (s : State) : runWords [] s = .next s := rfl

theorem runWords_cons (h : acceptWord w s = .next t) (ws : List CmdWord) : runWords (w :: ws) s = runWords ws t := by
  simp [runWords, runMoves, accept, h]

theorem runMoves_append (h : runMoves ms s = .next t) (ns : List HostMove) :
    runMoves (ms ++ ns) s = runMoves ns t := by
  induction ms generalizing s with
  | nil => cases h; rfl
  | cons m ms ih =>
    simp only [runMoves, List.cons_append] at h ⊢
    split at h
    · exact ih h
    · cases h
    · cases h

theorem runWords_append (h : runWords ws s = .next t) (vs : List CmdWord) : runWords (ws ++ vs) s = runWords vs t := by
  rw [runWords, List.map_append]
  exact runMoves_append h _

theorem ending_good (h : Good t) : ending (.next t) = .good t := if_neg h

theorem ending_faulted (h : ¬Good t) : ending (.next t) = .faulted t.cause t := if_pos (Decidable.not_not.mp h)

theorem endsWell_iff (ws : List CmdWord) (s : State) : endsWell ws s = true ↔ ∃ t, runWords ws s = .next t ∧ Good t := by
  rw [endsWell]
  rcases runWords ws s with t | r | r
  · by_cases h : Good t
    · simp [ending_good h, h]
    · simp [ending_faulted h, h]
  · cases r
  · simp [ending]

end Sys2Proof.Machine
end

