-- ==== Sys2Proof/Laws/Transform.lean ====
section
/-! SUPPORT. What the schedule and the rounds do, for proofs about TRANSFORM. -/

namespace Sys2Proof.Machine

/-- The first 16 schedule words are the loads (R101). -/
theorem scheduleTo_zero (b : Block) : scheduleTo b 0 = Vector.ofFn fun i => loadWord b i := rfl

/-- One more step of the recurrence appends one word (R102). -/
theorem scheduleTo_succ (b : Block) (n : Nat) :
    scheduleTo b (n + 1) =
      (scheduleTo b n).push
        (scheduleStep (scheduleTo b n)[14 + n] (scheduleTo b n)[9 + n] (scheduleTo b n)[1 + n] (scheduleTo b n)[n]) := rfl

/-- A schedule word, once computed, stays. -/
theorem scheduleTo_stable (b : Block) (n k t : Nat) (h : t < 16 + n) :
    (scheduleTo b (n + k))[t] = (scheduleTo b n)[t] := by
  induction k with
  | zero => rfl
  | succ k ih =>
    have stored : t < 16 + (n + k) := by omega
    exact (Vector.getElem_push_lt stored).trans ih

/-- The schedule is the 16 loads and 48 steps (R101, R102). -/
theorem schedule_eq (b : Block) : schedule b = scheduleTo b 48 := by
  rw [schedule]

/-- Rounds over two runs of pairs are the second run's after the first's. -/
theorem runRounds_append (v : Working) (p q : List (Word × Word)) :
    runRounds v (p ++ q) = runRounds (runRounds v p) q := by
  simp [runRounds, List.foldl_append]

/-- One round more at the end. -/
theorem runRounds_snoc (v : Working) (p : List (Word × Word)) (k w : Word) :
    runRounds v (p ++ [(k, w)]) = compressRound (runRounds v p) k w := by
  simp [runRounds, List.foldl_append]

/-- `Compress` is the 64 rounds and the feed-forward (R100). -/
theorem compress_eq (H : StateWords) (b : Block) :
    compress H b = feedForward H (rounds (schedule b) (workingOf H)) := by
  rw [compress]

end Sys2Proof.Machine
end

