-- ==== Sys2Proof/Tests/Slice0.lean ====
section
/-! SUPPORT. Own tests: one step each, expected results from the spec's vectors (95_test_vectors.md) or rules; the well-formedness
smoke test; and for each statement with hypotheses a state and operands that meet them. -/

namespace Sys2Proof.Tests

open Sys2Proof Sys2Proof.Machine

/-! ### Small states -/

/-- After reset, with another phase and cause. -/
def inPhase (p : Phase) (c : Cause) : State :=
  { State.reset with phase := p, cause := c }

/-- ACTIVE after `n` bytes `00 01 02 ...` since INIT, `n` below 64. -/
def holding (n : BitVec 6) : State :=
  { State.reset with
    phase := .active
    H := iv
    occ := n
    blk := Vector.ofFn fun a => if a.val < n.toNat then BitVec.ofNat 8 a.val else 0 }

/-- ACTIVE after "abc". -/
def holdingAbc : State :=
  { State.reset with
    phase := .active
    H := iv
    occ := 3
    blk := ((State.reset.blk.set 0 0x61).set 1 0x62).set 2 0x63 }

/-- DONE with the digest register holding `00 01 02 ...`. -/
def finished : State :=
  { State.reset with phase := .done, dig := Vector.ofFn fun a => BitVec.ofNat 8 a.val }

/-- The next state of an outcome, if there is one. -/
def nextOf (o : Host.Outcome State Fault Refusal) : Option State :=
  match o with
  | .next t => some t
  | .fault _ => none
  | .refused _ => none

/-! ### Decoding and well-formedness -/

/-- 95 section 2, the legal words. -/
theorem test_decode_legal :
    decode 0x0100 = .ok .init ∧ decode 0x0200 = .ok (.update 0x00) ∧ decode 0x0280 = .ok (.update 0x80) ∧
    decode 0x0300 = .ok .final ∧ decode 0x041F = .ok (.rdig 31) ∧ decode 0x0500 = .ok .rstat := by decide

/-- 95 section 2, the reserved words, each by its range. -/
theorem test_decode_reserved :
    decode 0x0000 = .error .opcode ∧ decode 0x00FF = .error .opcode ∧ decode 0x0101 = .error .initOperand ∧
    decode 0x01FF = .error .initOperand ∧ decode 0x0301 = .error .finalOperand ∧ decode 0x0420 = .error .rdigIndex ∧
    decode 0x0480 = .error .rdigIndex ∧ decode 0x0501 = .error .rstatOperand ∧ decode 0x0600 = .error .opcode ∧
    decode 0x8100 = .error .opcode ∧ decode 0xFF00 = .error .opcode ∧ decode 0xFFFF = .error .opcode := by decide

/-- R65: the encoder writes the rows' words. -/
theorem test_encode :
    encode .init = 0x0100 ∧ encode (.update 0x61) = 0x0261 ∧ encode .final = 0x0300 ∧ encode (.rdig 31) = 0x041F ∧
    encode .rstat = 0x0500 := by decide

/-- The well-formedness checks refuse an ill-formed term each: a word per clause of R66, a line per range of R71. -/
theorem test_ill_formed_refused :
    legal 0x0101 = false ∧ legal 0x0301 = false ∧ legal 0x0420 = false ∧ legal 0x0501 = false ∧ legal 0x0000 = false ∧
    legal 0x0600 = false ∧ (AsmLine.update 256).wellFormed = false ∧ (AsmLine.rdig 32).wellFormed = false ∧
    (AsmLine.updateS [0, 256]).wellFormed = false ∧ (AsmLine.hash [256]).wellFormed = false := by decide

/-- The well-formedness checks accept the boundary terms. -/
theorem test_well_formed_accepted :
    legal 0x0100 = true ∧ legal 0x02FF = true ∧ legal 0x0300 = true ∧ legal 0x041F = true ∧ legal 0x0500 = true ∧
    (AsmLine.update 255).wellFormed = true ∧ (AsmLine.rdig 31).wellFormed = true ∧
    (AsmLine.updateS [0, 255]).wellFormed = true := by decide

/-- The table's numbering of bits, and a placed word running as the next step. -/
theorem test_table_word :
    decodeTableWord 16 0x0261 = some (.update 0x61) ∧ decodeTableWord 16 0x0420 = none ∧
    (nextOf (step (State.reset.withFetchWord 16 0x0100))).map (fun t => (t.phase, t.host)) = some (.active, []) := by
  decide

/-- R71 to R73: the examples of R71, the empty slice, an operand out of range, the expansion of UPDATE.S. -/
theorem test_assemble :
    assemble (.update 0x61) = some [0x0261] ∧ assemble (.rdig 31) = some [0x041F] ∧ assemble .final = some [0x0300] ∧
    assemble (.updateS []) = some [] ∧ assemble (.update 256) = none ∧
    assemble (.updateS [0x61, 0x62, 0x63]) = some [0x0261, 0x0262, 0x0263] ∧ assemble (.word 0x0600) = some [0x0600] ∧
    pollStops 0x02 = true ∧ pollStops 0x01 = false := by decide

/-! ### The tables and TRANSFORM -/

/-- 95 section 4, function values at `0x12345678` and the Ch and Maj rows. -/
theorem test_functions :
    ssig0 0x12345678 = 0xe7fce6ee ∧ ssig1 0x12345678 = 0xa1f78649 ∧ bsig0 0x12345678 = 0x66146474 ∧
    bsig1 0x12345678 = 0x3561abda ∧ ssig0 0xffffffff = 0x1fffffff ∧ ssig1 0x80000000 = 0x00205000 ∧
    ch 0xf0f0f0f0 0xcccccccc 0xaaaaaaaa = 0xcacacaca ∧ maj 0xf0f0f0f0 0xcccccccc 0xaaaaaaaa = 0xe8e8e8e8 := by decide

/-- 95 section 3, round 0 of "abc": `T1` and `T2`. -/
theorem test_round_zero :
    temp1 (workingOf iv) 0x428a2f98 0x61626380 = 0x54da50e8 ∧ temp2 (workingOf iv) = 0x08909ae5 := by decide

/-- 95 section 4, vector T3: it shows the byte order of the loads. -/
theorem test_compress_T3 :
    compress iv (Vector.ofFn fun a => BitVec.ofNat 8 a.val) =
      #v[0xfc99a2df, 0x88f42a7a, 0x7bb9d180, 0x33cdc6a2, 0x0256755f, 0x9d5b9a50, 0x44a9cc31, 0x5abe84a7] := by
  decide +kernel

/-- 95 section 4, vector T6: all ones, every addition wrapping. -/
theorem test_compress_T6 :
    compress (Vector.replicate 8 0xffffffff) (Vector.replicate 64 0xff) =
      #v[0x0598127a, 0xaf11706e, 0x77401fff, 0xd730c549, 0x0b84c867, 0xa98c6ca3, 0xd7f3c0f9, 0x06a78b79] := by
  decide +kernel

/-! ### One step per command -/

/-- 95 section 2, I1: INIT after reset. -/
theorem test_init_starts :
    (nextOf (exec .init State.reset)).map (fun t => (t.phase, t.H[7], t.occ, t.bitcnt)) =
      some (.active, 0x5be0cd19, 0, 0) := by decide

/-- 95 section 2, I2 and I4: INIT in ACTIVE faults, in FAULT it is ignored. -/
theorem test_init_out_of_order :
    (nextOf (exec .init (inPhase .active .none))).map (fun t => (t.phase, t.cause)) = some (.fault, .reinitActive) ∧
    (nextOf (exec .init (inPhase .fault .notInitialized))).map (fun t => (t.phase, t.cause)) =
      some (.fault, .notInitialized) := by decide

/-- 95 section 6, U2: the first byte. -/
theorem test_update_first_byte :
    (nextOf (exec (.update 0x61) (holding 0))).map (fun t => (t.blk[0], t.occ, t.bitcnt, t.H)) =
      some (0x61, 1, 0, iv) := by decide +kernel

/-- 95 section 6, U4: the 64th byte runs TRANSFORM. -/
theorem test_update_boundary :
    (nextOf (exec (.update 0x3f) (holding 63))).map (fun t => (t.H[0], t.H[7], t.occ, t.bitcnt, t.blk[63])) =
      some (0xfc99a2df, 0x5abe84a7, 0, 512, 0x3f) := by decide +kernel

/-- 95 section 3 (S2): FINAL after "abc". -/
theorem test_final_abc :
    (nextOf (exec .final holdingAbc)).map (fun t => (t.dig.toList.take 4, t.dig[31], t.bitcnt, t.blk[63], t.phase)) =
      some ([0xba, 0x78, 0x16, 0xbf], 0xad, 24, 0x18, .done) := by decide +kernel

/-- 95 section 5, F56: the first length that takes two blocks. -/
theorem test_final_two_blocks :
    (nextOf (exec .final (holding 56))).map (fun t => (t.H[0], t.H[7], t.bitcnt, t.blk[0], t.blk[62], t.occ)) =
      some (0xda2ae4d6, 0x0895f562, 448, 0x00, 0x01, 56) := by decide +kernel

/-- R150: RDIG answers the byte at its index. -/
theorem test_rdig_done :
    (nextOf (exec (.rdig 31) finished)).map (fun t => (t.resp, t.phase)) = some (some 31, .done) := by decide +kernel

/-- 95 section 6, X6: RDIG in ACTIVE. -/
theorem test_rdig_early :
    (nextOf (exec (.rdig 5) (inPhase .active .none))).map (fun t => (t.resp, t.phase, t.cause, status t)) =
      some (none, .fault, .digestNotReady, 0x17) := by decide

/-- 95 section 6, Q7 and Q5. -/
theorem test_rstat :
    (nextOf (exec .rstat State.reset)).map (·.resp) = some (some 0x00) ∧
    (nextOf (exec .rstat (inPhase .active .none))).map (·.resp) = some (some 0x01) := by decide

/-- R153 and U8: STATUS read by its fields; a cause code 6 and a non-zero top field are refused. -/
theorem test_read_status :
    readStatus 0x02 = some (.done, .none) ∧ readStatus 0x17 = some (.fault, .digestNotReady) ∧ readStatus 0x1B = none ∧
    readStatus 0x20 = none := by decide

/-- 95 section 6, X12: RSTAT answers in FAULT. -/
theorem test_rstat_in_fault :
    (nextOf (exec .rstat (inPhase .fault .notInitialized))).map (·.resp) = some (some 0x0B) := by decide

/-- 95 section 6, X7, X8, X10, X12: a reserved word outranks the phase, and is ignored in FAULT. -/
theorem test_reserved_words :
    (nextOf (acceptWord 0x0301 State.reset)).map status = some 0x07 ∧
    (nextOf (acceptWord 0x0420 (inPhase .active .none))).map status = some 0x07 ∧
    (nextOf (acceptWord 0xFFFF (inPhase .done .none))).map status = some 0x07 ∧
    (nextOf (acceptWord 0x0501 (inPhase .fault .notInitialized))).map (fun t => (status t, t.resp)) =
      some (0x0B, none) := by decide

/-- R181: INIT; FINAL; RDIG 0 ends well; the same after a reserved word, or with a second FINAL, does not. -/
theorem test_endings :
    endsWell [0x0100, 0x0300, 0x0400] State.reset = true ∧ endsWell [0x0600, 0x0100, 0x0300, 0x0400] State.reset = false ∧
    endsWell [0x0100, 0x0300, 0x0300] State.reset = false ∧
    ending (acceptWord 0x0600 State.reset) = .faulted .illegalCmd (raise .illegalCmd State.reset) := by decide +kernel

/-- R190: reset leaves FAULT and answers nothing. -/
theorem test_reset_event :
    (nextOf (accept .reset (inPhase .fault .reinitActive))).map (fun t => (t.phase, t.cause, t.resp)) =
      some (.uninit, .none, none) := by decide

/-- R143: the digest of the empty message and of "abc", as the statements define it. -/
theorem test_digest_of :
    ((digestOf []).toList.take 4, (digestOf [])[31]) = ([0xe3, 0xb0, 0xc4, 0x42], 0x55) ∧
    ((digestOf [0x61, 0x62, 0x63]).toList.take 4, (digestOf [0x61, 0x62, 0x63])[31]) =
      ([0xba, 0x78, 0x16, 0xbf], 0xad) := by decide +kernel

/-! ### Witnesses: each statement's hypotheses can be met, each clause at a boundary -/

/-- OpcodeMapSelectsCommand, DecodedWordIsItsEncoding, OperandsUsedAsTheyStand: words that decode, in the phase asked for. -/
theorem witness_decoded_words :
    decode 0x02FF = .ok (.update 0xFF) ∧ (holding 63).phase = .active ∧ decode 0x041F = .ok (.rdig 31) ∧
    finished.phase = .done := by decide +kernel

/-- ReservedWordsFault, StepOnReservedWord, FaultPriority: a reserved word outside FAULT and in it. -/
theorem witness_reserved_word :
    (∀ i, decode 0x0420 ≠ .ok i) ∧ (State.reset.withFetchWord 16 0x0420).host = .issue 0x0420 :: [] ∧
    State.reset.phase ≠ .fault ∧ (inPhase .fault .illegalCmd).phase = .fault := by
  refine ⟨fun i h => ?_, by decide, by decide, by decide⟩
  have reserved : decode 0x0420 = .error .rdigIndex := by decide
  rw [reserved] at h
  cases h

/-- AssemblerEmitsLegalWords: a line that assembles and is not `.word`. -/
theorem witness_assembled_line :
    assemble (.update 255) = some [0x02FF] ∧ (∀ w, AsmLine.update 255 ≠ .word w) := by
  refine ⟨by decide, fun w h => ?_⟩
  cases h

/-- StepRunsDecodedCommand: a state whose next move issues a word that decodes. -/
theorem witness_step_runs :
    (State.reset.withFetchWord 16 0x0261).host = .issue 0x0261 :: [] ∧ decode 0x0261 = .ok (.update 0x61) := by decide

/-- StepAppliesReset and IdleEngineHoldsState. -/
theorem witness_moves :
    ({ State.reset with host := [.reset] } : State).host = .reset :: [] ∧ State.reset.host = [] := by decide

/-- InitStartsOperation, InitInActiveFaults, InitFromDoneHidesDigest, InitAbsorbsNothing: every phase. -/
theorem witness_phases :
    (inPhase .uninit .none).phase = .uninit ∧ (inPhase .active .none).phase = .active ∧
    (inPhase .done .none).phase = .done ∧ (inPhase .fault .reinitActive).phase = .fault := by decide

/-- InitStartsOperation, RdigAnswersDigestByte, RstatAnswersStatus: the ends of the reserved ranges, outside FAULT and in it. -/
theorem witness_reserved_ranges :
    decode 0x0101 = .error .initOperand ∧ decode 0x01FF = .error .initOperand ∧ decode 0x0420 = .error .rdigIndex ∧
    decode 0x04FF = .error .rdigIndex ∧ decode 0x0501 = .error .rstatOperand ∧ decode 0x05FF = .error .rstatOperand ∧
    State.reset.phase ≠ .fault ∧ (inPhase .fault .reinitActive).phase = .fault := by
  decide

/-- UpdateAbsorbsByte, UpdateFrame, SliceInClosedForm, ChunkingInvariance: ACTIVE at occupancy 0, below the boundary and at it. -/
theorem witness_update :
    (holding 0).phase = .active ∧ (holding 0).occ = 0 ∧
    (holding 62).phase = .active ∧ (holding 62).occ.toNat ≠ 63 ∧ (holding 63).phase = .active ∧
    (holding 63).occ.toNat = 63 ∧ ∃ t, exec (.update 0) (holding 62) = .next t := by
  exact ⟨rfl, rfl, rfl, by decide, rfl, by decide,
    absorbByte 0 (holding 62), by rw [exec]; exact execUpdate_active 0 rfl⟩

/-- UpdateOutOfOrderFaults, FinalOutOfOrderFaults. -/
theorem witness_out_of_order :
    State.reset.phase = .uninit ∧ finished.phase = .done ∧ ∃ t, exec .final finished = .next t :=
  ⟨rfl, rfl, raise .alreadyFinalized finished, by rw [exec]; exact execFinal_done rfl⟩

/-- FinalOneBlock, FinalTwoBlocks and FinalWritesLengthField: the ends of their ranges, 0, 55, 56, 63. -/
theorem witness_final :
    (holding 0).phase = .active ∧ (holding 0).occ.toNat < 56 ∧ (holding 55).occ.toNat < 56 ∧
    (holding 55).phase = .active ∧ 56 ≤ (holding 56).occ.toNat ∧ (holding 56).phase = .active ∧
    56 ≤ (holding 63).occ.toNat ∧ (holding 63).phase = .active := by
  exact ⟨rfl, by decide, by decide, rfl, by decide, rfl, by decide, rfl⟩

/-- InitFrame, FinalFrame, FinalSerialisesDigest: an INIT and a FINAL that answer a next state. -/
theorem witness_frames :
    (∃ t, exec .init State.reset = .next t) ∧ (holding 55).phase = .active ∧ ∃ t, exec .final (holding 55) = .next t :=
  ⟨⟨startOperation State.reset, by rw [exec]; exact execInit_starts (.inl rfl)⟩, rfl,
    finishOperation (holding 55), by rw [exec]; exact execFinal_active rfl⟩

/-- UpdateExtendsMessage, FinalComputesDigest: a state that has absorbed the empty message. -/
theorem witness_absorbed_empty : Absorbed [] (startOperation State.reset) where
  phase := rfl
  words := by simp [compressBlocks_zero]
  occ := rfl
  bitcnt := rfl
  tail := fun a h => absurd h (by simp)

/-- UpdateExtendsMessage, FinalComputesDigest: a state that has absorbed "abc". -/
theorem witness_absorbed_abc : Absorbed [0x61, 0x62, 0x63] holdingAbc where
  phase := rfl
  words := (compressBlocks_zero _ _).symm
  occ := by decide
  bitcnt := by decide
  tail := by decide

/-- HashOperationAnswersDigest, MessageDeterminesDigest, UnspecifiedRegistersAreUnobservable: two different states with INIT
legal. -/
theorem witness_hash_operation :
    State.reset.phase = .uninit ∧ finished.phase = .done ∧ ({ State.reset with occ := 63 } : State).phase = .uninit ∧
    State.reset.cause = ({ State.reset with occ := 63 } : State).cause := by decide +kernel

/-- RdigBeforeDoneFaults, RdigAllAnswersDigest, ReadoutFrame, StatusLayout. -/
theorem witness_readout :
    State.reset.phase = .uninit ∧ (holding 0).phase = .active ∧ finished.phase = .done ∧
    (∃ t, exec .rstat finished = .next t) ∧ ∃ t, exec (.rdig 31) finished = .next t :=
  ⟨rfl, rfl, rfl, ⟨_, rfl⟩,
    respond (some finished.dig[(digAddress 31).val]) finished, by rw [exec]; exact execRdig_done 31 rfl⟩

/-- DONE with all-zero state words and their digest. -/
def finishedZero : State := { State.reset with phase := .done }

/-- RdigAnswersDigestByte, PollIsTruthful, StepKeepsDigestInvariant, StepKeepsCounterInvariant: DONE with the invariants, a poll that answers DONE. -/
theorem witness_done_invariants :
    DigestInv finishedZero ∧ CounterInv finishedZero ∧ FaultInv finishedZero ∧ status finishedZero = 0x02 ∧
    exec .rstat finishedZero = .next (respond (some 0x02) finishedZero) ∧ (0x02 : Byte).extractLsb' 0 2 = 2 := by
  refine ⟨fun _ => by decide, ⟨fun h => ?_, fun _ => by decide⟩, by unfold FaultInv; decide, by decide, rfl,
    by decide⟩
  cases h

/-- StepKeepsFaultInvariant, StatusLayout, FaultHaltsEngine, OnlyResetLeavesFault: FAULT with its invariant, and a step from it. -/
theorem witness_fault_invariant :
    FaultInv (inPhase .fault .digestNotReady) ∧ (inPhase .fault .digestNotReady).phase = .fault ∧
    ∃ t, step { inPhase .fault .digestNotReady with host := [.reset] } = .next t ∧ t.phase ≠ .fault ∧ t.phase = .uninit := by
  refine ⟨by unfold FaultInv; decide, rfl, _, rfl, ?_, rfl⟩
  exact fun h => Phase.noConfusion h

/-- FaultEntryIsPrecise, FaultPriority, FaultDependsOnWordAndPhaseOnly: a word that faults from two states of one phase. -/
theorem witness_fault_entry :
    State.reset.phase ≠ .fault ∧ State.reset.phase = ({ State.reset with occ := 63 } : State).phase ∧
    acceptWord 0x0261 State.reset = .next (raise .notInitialized State.reset) ∧
    acceptWord 0x0261 { State.reset with occ := 63 } = .next (raise .notInitialized { State.reset with occ := 63 }) ∧
    (raise .notInitialized State.reset).phase = .fault := by
  exact ⟨by decide, rfl, rfl, rfl, rfl⟩

/-- OnlyResetLeavesFault: a run that ends well, one that ends faulted, a start in FAULT, a start with the invariant. -/
theorem witness_endings :
    endsWell ([0x0100] ++ [0x0261]) State.reset = true ∧ endsWell [0x0261] State.reset = false ∧
    (inPhase .fault .illegalCmd).phase = .fault ∧ FaultInv State.reset :=
  ⟨by decide +kernel, by decide +kernel, rfl, by unfold FaultInv; decide⟩

/-- PollIsHarmless: the word that answers in FAULT. -/
theorem witness_poll_in_fault :
    (inPhase .fault .illegalCmd).phase = .fault ∧
    ∃ t, acceptWord 0x0500 (inPhase .fault .illegalCmd) = .next t ∧ t.resp.isSome = true :=
  ⟨rfl, _, rfl, rfl⟩

/-- StepKeepsDigestInvariant: INIT from DONE, then RDIG. -/
theorem witness_hidden_digest :
    finished.phase = .done ∧ ∃ t u, exec .init finished = .next t ∧ exec (.rdig 0) t = .next u :=
  ⟨rfl, startOperation finished, raise .digestNotReady (startOperation finished),
    by rw [exec]; exact execInit_starts (.inr rfl), by rw [exec]; exact execRdig_early 0 (.inr rfl)⟩

/-- FaultPriority: the two examples of R164 answer a next state. -/
theorem witness_priority_examples :
    (∃ t, acceptWord 0x0301 State.reset = .next t) ∧ ∃ t, acceptWord 0x0420 (holding 0) = .next t :=
  ⟨⟨_, rfl⟩, _, rfl⟩

end Sys2Proof.Tests
end

section
/-! PROOFS. The rules of UPDATE's and FINAL's effects, field by field (R90, R91, R130). -/

namespace Sys2Proof.Machine

section absorbByte
variable (b : Byte) (s : State)

@[simp] theorem absorbByte_blk : (absorbByte b s).blk = storeBE s.blk s.occ.toNat 1 b := by
  rw [absorbByte]; split <;> rfl

@[simp] theorem absorbByte_dig : (absorbByte b s).dig = s.dig := by
  rw [absorbByte]; split <;> rfl

@[simp] theorem absorbByte_phase : (absorbByte b s).phase = s.phase := by
  rw [absorbByte]; split <;> rfl

@[simp] theorem absorbByte_cause : (absorbByte b s).cause = s.cause := by
  rw [absorbByte]; split <;> rfl

@[simp] theorem absorbByte_resp : (absorbByte b s).resp = none := by
  rw [absorbByte]; split <;> rfl

@[simp] theorem absorbByte_host : (absorbByte b s).host = s.host := by
  rw [absorbByte]; split <;> rfl

@[simp] theorem absorbByte_resets : (absorbByte b s).resets = s.resets := by
  rw [absorbByte]; split <;> rfl

/-- The state words move at the block boundary only (R91). -/
theorem absorbByte_H : (absorbByte b s).H =
    if s.occ = 63 then compress s.H (storeBE s.blk s.occ.toNat 1 b) else s.H := by
  rw [absorbByte]; split <;> rfl

/-- The counter moves at the block boundary only (R91). -/
theorem absorbByte_bitcnt : (absorbByte b s).bitcnt = if s.occ = 63 then s.bitcnt + 512 else s.bitcnt := by
  rw [absorbByte]; split <;> rfl

/-- The occupancy counts modulo 64 (R13, R90, R91). -/
theorem absorbByte_occ : (absorbByte b s).occ = s.occ + 1 := by
  by_cases h : s.occ = 63
  · rw [absorbByte_boundary b s h, h]; rfl
  · rw [absorbByte_below b s h]

end absorbByte

section finishOperation
variable (s : State)

/-- The block FINAL runs its last TRANSFORM on: marked, filled, with the length (R132 to R136). -/
def lastBlock : State :=
  putLength (fillToLength (mark (countTail s)))

theorem finishOperation_eq :
    finishOperation s = respond none { putDigest (transform (lastBlock s)) with phase := .done } := rfl

@[simp] theorem finishOperation_H : (finishOperation s).H = compress (lastBlock s).H (lastBlock s).blk := rfl
@[simp] theorem finishOperation_blk : (finishOperation s).blk = (lastBlock s).blk := rfl
@[simp] theorem finishOperation_dig : (finishOperation s).dig = serialise (finishOperation s).H s.dig := by
  simp [finishOperation_eq, lastBlock]
@[simp] theorem finishOperation_phase : (finishOperation s).phase = .done := rfl
@[simp] theorem finishOperation_resp : (finishOperation s).resp = none := rfl

@[simp] theorem finishOperation_occ : (finishOperation s).occ = s.occ := by
  simp [finishOperation_eq, lastBlock]

@[simp] theorem finishOperation_bitcnt : (finishOperation s).bitcnt = s.bitcnt + 8 * s.occ.setWidth 64 := by
  simp [finishOperation_eq, lastBlock]

@[simp] theorem finishOperation_cause : (finishOperation s).cause = s.cause := by
  simp [finishOperation_eq, lastBlock]

@[simp] theorem finishOperation_host : (finishOperation s).host = s.host := by
  simp [finishOperation_eq, lastBlock]

@[simp] theorem finishOperation_resets : (finishOperation s).resets = s.resets := by
  simp [finishOperation_eq, lastBlock]

end finishOperation

end Sys2Proof.Machine
end

section
/-! PROOFS. R19's table as the port's effect: in each cell a word faults, runs its command, or is ignored; a run of words is the
fold of that effect (R54). -/

namespace Sys2Proof.Machine

/-- The cells of R19's table in which the command runs. -/
def permits : Phase → Instr → Bool
  | _, .rstat => true
  | .uninit, .init => true
  | .active, .update _ => true
  | .active, .final => true
  | .done, .init => true
  | .done, .rdig _ => true
  | _, _ => false

theorem permits_init {p : Phase} : permits p .init = true ↔ p = .uninit ∨ p = .done := by
  cases p <;> simp [permits]

theorem permits_update {p : Phase} {b : Byte} : permits p (.update b) = true ↔ p = .active := by
  cases p <;> simp [permits]

theorem permits_final {p : Phase} : permits p .final = true ↔ p = .active := by
  cases p <;> simp [permits]

theorem permits_rdig {p : Phase} {x : BitVec 5} : permits p (.rdig x) = true ↔ p = .done := by
  cases p <;> simp [permits]

/-- What a command does to the state in a cell in which it runs. -/
def commandEffect : Instr → State → State
  | .init, s => startOperation s
  | .update b, s => absorbByte b s
  | .final, s => finishOperation s
  | .rdig x, s => respond (some s.dig[(digAddress x).val]) s
  | .rstat, s => respond (some (status s)) s

/-- What a decoded word does to the state, by the cell of R19's table it stands in. -/
def cellEffect (d : Except Reserved Instr) (s : State) : State :=
  match faultTable s.phase d, d with
  | some c, _ => raise c s
  | none, .ok i => if permits s.phase i then commandEffect i s else ignore s
  | none, .error _ => ignore s

/-- The state after a sequence of command words. -/
def afterWords (ws : List CmdWord) (s : State) : State :=
  ws.foldl (fun s w => cellEffect (decode w) s) s

section cells
variable {s t : State} {i : Instr} {c : Cause} {w : CmdWord} {d : Except Reserved Instr}

/-- A cell in which the command runs names no fault. -/
theorem faultTable_of_permits {p : Phase} (h : permits p i = true) : faultTable p (.ok i) = none := by
  cases p <;> cases i <;> simp_all [permits, faultTable]

/-- A cell that names a fault leads to FAULT (R19). -/
theorem phaseTable_of_fault {p : Phase} (h : faultTable p d = some c) : phaseTable p d = .fault := by
  rcases d with r | i
  · cases p <;> simp_all [phaseTable, faultTable]
  · cases p <;> cases i <;> simp_all [phaseTable, faultTable]

theorem faultTable_ne_none {p : Phase} (h : faultTable p d = some c) : c ≠ .none := by
  rintro rfl
  rcases d with r | i
  · cases p <;> simp [faultTable] at h
  · cases p <;> cases i <;> simp [faultTable] at h

/-- The three kinds of cell. -/
theorem table_cell (p : Phase) (d : Except Reserved Instr) :
    (∃ c, faultTable p d = some c) ∨ (p = .fault ∧ d ≠ .ok .rstat) ∨ ∃ i, d = .ok i ∧ permits p i = true := by
  rcases d with r | i
  · cases p <;> simp [faultTable]
  · cases p <;> cases i <;> simp [faultTable, permits]

theorem cellEffect_faults (h : faultTable s.phase d = some c) : cellEffect d s = raise c s := by
  simp [cellEffect, h]

theorem cellEffect_runs (h : permits s.phase i = true) : cellEffect (.ok i) s = commandEffect i s := by
  simp [cellEffect, faultTable_of_permits h, h]

theorem cellEffect_ignored (hp : s.phase = .fault) (hd : d ≠ .ok .rstat) : cellEffect d s = ignore s := by
  rcases d with r | i
  · simp [cellEffect, hp, faultTable]
  · cases i <;> simp_all [cellEffect, faultTable, permits]

/-- What a word does, with the kind of its cell; unlike `exec_cases` it says which cells fault and how. -/
theorem cellEffect_cases (d : Except Reserved Instr) (s : State) :
    (∃ c, faultTable s.phase d = some c ∧ cellEffect d s = raise c s) ∨
    (s.phase = .fault ∧ d ≠ .ok .rstat ∧ cellEffect d s = ignore s) ∨
    (∃ i, d = .ok i ∧ permits s.phase i = true ∧ cellEffect d s = commandEffect i s) := by
  obtain ⟨c, hc⟩ | ⟨hp, hd⟩ | ⟨i, rfl, run⟩ := table_cell s.phase d
  · exact .inl ⟨c, hc, cellEffect_faults hc⟩
  · exact .inr (.inl ⟨hp, hd, cellEffect_ignored hp hd⟩)
  · exact .inr (.inr ⟨i, rfl, run, cellEffect_runs run⟩)

/-- Every command has a next state (R202), the one of its cell. -/
theorem exec_eq (i : Instr) (s : State) : exec i s = .next (cellEffect (.ok i) s) := by
  cases i <;> cases hp : s.phase <;>
    simp [exec, execInit, execUpdate, execFinal, execRdig, execRstat, cellEffect, faultTable, permits, commandEffect, hp]

/-- Every word has a next state (R202), the one of its cell. -/
theorem acceptWord_eq (w : CmdWord) (s : State) : acceptWord w s = .next (cellEffect (decode w) s) := by
  rcases hd : decode w with r | i
  · cases hp : s.phase <;> simp [acceptWord, hd, acceptReserved, cellEffect, faultTable, hp]
  · simp [acceptWord, hd, exec_eq]

theorem runWords_eq (ws : List CmdWord) (s : State) : runWords ws s = .next (afterWords ws s) := by
  induction ws generalizing s with
  | nil => rfl
  | cons w ws ih => exact (runWords_cons (acceptWord_eq w s) ws).trans (ih _)

theorem responses_cons (w : CmdWord) (ws : List CmdWord) (s : State) :
    responses (w :: ws) s = (cellEffect (decode w) s).resp :: responses ws (cellEffect (decode w) s) := by
  rw [responses, acceptWord_eq]

@[simp] theorem commandEffect_cause (i : Instr) (s : State) : (commandEffect i s).cause = s.cause := by
  cases i <;> simp [commandEffect]

theorem commandEffect_phase (h : permits s.phase i = true) :
    (commandEffect i s).phase = phaseTable s.phase (.ok i) := by
  cases i <;> cases hp : s.phase <;> simp_all [permits, commandEffect, phaseTable]

/-- A word leads to its cell's phase (R19). -/
theorem cellEffect_phase (d : Except Reserved Instr) (s : State) :
    (cellEffect d s).phase = phaseTable s.phase d := by
  obtain ⟨c, hc, e⟩ | ⟨hp, -, e⟩ | ⟨i, rfl, run, e⟩ := cellEffect_cases d s
  · rw [e, phaseTable_of_fault hc, raise_phase]
  · rw [e, hp, ignore_phase, hp, phaseTable]
  · rw [e, commandEffect_phase run]

/-- A word records its cell's fault and otherwise keeps the cause (R19, R166). -/
theorem cellEffect_cause (d : Except Reserved Instr) (s : State) :
    (cellEffect d s).cause = (faultTable s.phase d).getD s.cause := by
  obtain ⟨c, hc, e⟩ | ⟨hp, -, e⟩ | ⟨i, rfl, run, e⟩ := cellEffect_cases d s
  · rw [e, hc, raise_cause, Option.getD_some]
  · rw [e, hp, ignore_cause, faultTable, Option.getD_none]
  · rw [e, faultTable_of_permits run, commandEffect_cause, Option.getD_none]

/-- In FAULT every word keeps the phase and the cause (R168). -/
theorem cellEffect_from_fault (d : Except Reserved Instr) (hp : s.phase = .fault) :
    (cellEffect d s).phase = .fault ∧ (cellEffect d s).cause = s.cause := by
  rw [cellEffect_phase, cellEffect_cause, hp]
  exact ⟨rfl, rfl⟩

/-- No word leads back to UNINIT (R19). -/
theorem phaseTable_ne_uninit {p : Phase} (hp : p ≠ .uninit) (d : Except Reserved Instr) :
    phaseTable p d ≠ .uninit := by
  rcases d with r | i
  · cases p <;> simp_all [phaseTable]
  · cases p <;> cases i <;> simp_all [phaseTable]

end cells

/-- Everything a step can do (R60, R205): idle, reset the engine, or carry out a word. -/
theorem step_cases {s t : State} (h : step s = .next t) :
    (s.host = [] ∧ t = s) ∨
    (∃ rest, s.host = .reset :: rest ∧ t = resetEvent { s with host := rest }) ∨
    (∃ w rest, s.host = .issue w :: rest ∧ t = cellEffect (decode w) { s with host := rest }) := by
  rw [step, takeMove] at h
  split at h
  next idle =>
    cases h
    exact .inl ⟨idle, rfl⟩
  next m rest move =>
    cases m with
    | issue w =>
      rw [accept, acceptWord_eq] at h
      cases h
      exact .inr (.inr ⟨w, rest, move, rfl⟩)
    | reset =>
      cases h
      exact .inr (.inl ⟨rest, move, rfl⟩)

/-- A predicate that the reset event establishes and every effect of the engine keeps. -/
structure EngineInvariant (P : State → Prop) : Prop where
  host : ∀ (rest : List HostMove) (s : State), P s → P { s with host := rest }
  reset : ∀ s, P (resetEvent s)
  respond : ∀ r s, P s → P (respond r s)
  raise : ∀ c s, c ≠ .none → P (raise c s)
  start : ∀ s, s.phase = .uninit ∨ s.phase = .done → P s → P (startOperation s)
  absorb : ∀ b s, s.phase = .active → P s → P (absorbByte b s)
  finish : ∀ s, s.phase = .active → P s → P (finishOperation s)

namespace EngineInvariant
variable {P : State → Prop} {s t : State}

theorem command (inv : EngineInvariant P) {i : Instr} (run : permits s.phase i = true) (h : P s) :
    P (commandEffect i s) := by
  cases i with
  | init => exact inv.start s (permits_init.1 run) h
  | update b => exact inv.absorb b s (permits_update.1 run) h
  | final => exact inv.finish s (permits_final.1 run) h
  | rdig x => exact inv.respond _ s h
  | rstat => exact inv.respond _ s h

theorem word (inv : EngineInvariant P) (d : Except Reserved Instr) (h : P s) : P (cellEffect d s) := by
  obtain ⟨c, hc, e⟩ | ⟨-, -, e⟩ | ⟨i, -, run, e⟩ := cellEffect_cases d s
  · exact e ▸ inv.raise c s (faultTable_ne_none hc)
  · exact e ▸ inv.respond none s h
  · exact e ▸ inv.command run h

theorem words (inv : EngineInvariant P) (ws : List CmdWord) (h : P s) : P (afterWords ws s) := by
  induction ws generalizing s with
  | nil => exact h
  | cons w ws ih => exact ih (inv.word (decode w) h)

theorem step (inv : EngineInvariant P) (h : P s) (next : step s = .next t) : P t := by
  obtain ⟨-, rfl⟩ | ⟨rest, -, rfl⟩ | ⟨w, rest, -, rfl⟩ := step_cases next
  · exact h
  · exact inv.reset _
  · exact inv.word _ (inv.host rest s h)

end EngineInvariant

end Sys2Proof.Machine
end

section
/-! PROOFS. The three invariants of the engine: established by reset, kept by every effect (R15, R22, R167). -/

namespace Sys2Proof.Machine

theorem engineInvariant_faultInv : EngineInvariant FaultInv where
  host _ _ h := h
  reset _ := by simp [FaultInv]
  respond _ _ h := h
  raise _ _ hc := by simpa [FaultInv] using hc
  start s hp h := by rcases hp with hp | hp <;> simpa [FaultInv, hp] using h
  absorb b s _ h := by simpa [FaultInv] using h
  finish s hp h := by simpa [FaultInv, hp] using h

/-- FINAL leaves the complete serialisation; no other effect enters DONE (R22, R138, R139). -/
theorem engineInvariant_digestInv : EngineInvariant DigestInv where
  host _ _ h := h
  reset _ := by simp [DigestInv]
  respond _ _ h := h
  raise _ _ _ := by simp [DigestInv]
  start _ _ _ := by simp [DigestInv]
  absorb b s hp _ := by simp [DigestInv, hp]
  finish s _ _ := fun _ k j => by
    have offset : 8 * (4 - 1 - j.val) = 24 - 8 * j.val := by omega
    simp only [finishOperation_dig]
    rw [serialise_get, byteBE, offset]

/-- A block more keeps the counter a whole number of blocks, its wrap at 2^64 included (R15, R91). -/
theorem toNat_add_512_mod (v : Dword) (h : v.toNat % 512 = 0) : (v + 512).toNat % 512 = 0 := by
  bv_omega

/-- The buffered bytes make the counter a whole number of bytes (R131). -/
theorem toNat_add_tail_mod (v : Dword) (n : BitVec 6) (h : v.toNat % 512 = 0) :
    (v + 8 * n.setWidth 64).toNat % 8 = 0 := by
  bv_omega

/-- The length field FINAL leaves (R136). -/
theorem finishOperation_lengthField (s : State) (j : Fin 8) :
    (finishOperation s).blk[56 + j.val] = (finishOperation s).bitcnt.extractLsb' (56 - 8 * j.val) 8 := by
  have offset : 8 * (8 - 1 - j.val) = 56 - 8 * j.val := by omega
  simp only [finishOperation_blk, lastBlock, putLength_blk]
  rw [storeBE_get_inside _ _ _ _ _ j.isLt, byteBE, offset]
  simp

theorem engineInvariant_counterInv : EngineInvariant CounterInv where
  host _ _ h := h
  reset _ := by simp [CounterInv]
  respond _ _ h := h
  raise _ _ _ := by simp [CounterInv]
  start _ _ _ := by simp [CounterInv]
  absorb b s hp h := by
    obtain ⟨blocks, -⟩ := h
    refine ⟨fun _ => ?_, fun hd => by simp [hp] at hd⟩
    rw [absorbByte_bitcnt]
    split
    · exact toNat_add_512_mod _ (blocks hp)
    · exact blocks hp
  finish s hp h := by
    obtain ⟨blocks, -⟩ := h
    refine ⟨fun ha => by simp at ha, fun _ => ⟨?_, finishOperation_lengthField s⟩⟩
    rw [finishOperation_bitcnt]
    exact toNat_add_tail_mod _ _ (blocks hp)

/-- No command but FINAL writes `dig` (R22). -/
theorem commandEffect_dig {i : Instr} (hi : i ≠ .final) (s : State) : (commandEffect i s).dig = s.dig := by
  cases i <;> simp_all [commandEffect]

theorem cellEffect_dig {i : Instr} (hi : i ≠ .final) (s : State) : (cellEffect (.ok i) s).dig = s.dig := by
  obtain ⟨c, -, e⟩ | ⟨-, -, e⟩ | ⟨i', hi', -, e⟩ := cellEffect_cases (.ok i) s
  · rw [e, raise_dig]
  · rw [e, ignore_dig]
  · cases hi'
    rw [e, commandEffect_dig hi]

/-- Settles O58: DigestInv is an invariant of every effect; INIT hides the digest because it leads to ACTIVE. -/
theorem stepKeepsDigestInvariant : Obligations.StepKeepsDigestInvariant := by
  refine ⟨fun s t h next => engineInvariant_digestInv.step h next, fun i s t hi next => ?_,
    fun s t u x hp init rdig => ?_⟩
  · rw [exec_eq] at next
    cases next
    exact cellEffect_dig hi s
  · rw [exec, execInit_starts (.inr hp)] at init
    cases init
    rw [exec, execRdig_early x (.inr (startOperation_phase s))] at rdig
    cases rdig
    exact ⟨rfl, rfl, rfl, rfl⟩

/-- Settles O59: UPDATE adds whole blocks, FINAL whole bytes and the length field. -/
theorem stepKeepsCounterInvariant : Obligations.StepKeepsCounterInvariant :=
  fun _ _ h next => engineInvariant_counterInv.step h next

/-- Settles O60, from the phase and the cause that reset gives alone. -/
theorem resetMeetsInvariants : Obligations.ResetMeetsInvariants := by
  have phase : State.reset.phase = .uninit := rfl
  have cause : State.reset.cause = .none := rfl
  refine ⟨phase, cause, ?_, ?_, ?_, ?_, ?_, ?_⟩
  · simp [doneFlag, phase]
  · simp [faultFlag, phase]
  · simp [status, phase, cause, phaseCode, causeCode]
  · simp [FaultInv, phase, cause]
  · simp [DigestInv, phase]
  · simp [CounterInv, phase]

end Sys2Proof.Machine
end

section
/-! PROOFS. FINAL's padding as bytes of the block, and what each command leaves unchanged, in every phase (R32). -/

namespace Sys2Proof.Machine

section padding
variable (s : State)

/-- A block with the marker at `n` and zeros from there to `hi` (R132 to R134). -/
def padFrom (b : Block) (n hi : Nat) : Block :=
  zeroFill (storeBE b n 1 (0x80 : Byte)) (n + 1) hi

theorem padFrom_get_below (b : Block) (n hi a : Nat) (h : a < 64) (ha : a < n) : (padFrom b n hi)[a] = b[a] := by
  have unfilled : ¬(n + 1 ≤ a ∧ a < hi) := by omega
  rw [padFrom, zeroFill_get, if_neg unfilled, storeBE_get_outside _ _ _ _ _ h (.inl ha)]

/-- From the marker on, up to `hi`, the old block cannot be seen. -/
theorem padFrom_get_from (b c : Block) (n hi a : Nat) (h : a < 64) (hn : n ≤ a) (ha : a < hi) :
    (padFrom b n hi)[a] = (padFrom c n hi)[a] := by
  simp only [padFrom, zeroFill_get, storeBE_byte_get]
  by_cases atMarker : a = n
  · simp [atMarker]
  · have filled : n + 1 ≤ a ∧ a < hi := by omega
    rw [if_pos filled, if_pos filled]

/-- In the one-block case the last block is the message's tail, padded (R133, R136). -/
theorem lastBlock_oneBlock (h : s.occ.toNat < 56) :
    (lastBlock s).H = s.H ∧
    (lastBlock s).blk = storeBE (padFrom s.blk s.occ.toNat 56) 56 8 (s.bitcnt + 8 * s.occ.setWidth 64) := by
  have fill : fillToLength (mark (countTail s)) = zeroA (mark (countTail s)) := fillToLength_oneBlock h
  rw [lastBlock, fill]
  exact ⟨rfl, rfl⟩

/-- In the two-block case the padded tail is compressed first and the last block holds zeros (R134, R136). -/
theorem lastBlock_twoBlocks (h : 56 ≤ s.occ.toNat) :
    (lastBlock s).H = compress s.H (padFrom s.blk s.occ.toNat 64) ∧
    (lastBlock s).blk =
      storeBE (zeroFill (padFrom s.blk s.occ.toNat 64) 0 56) 56 8 (s.bitcnt + 8 * s.occ.setWidth 64) := by
  have fill : fillToLength (mark (countTail s)) = zeroC (transform (zeroB (mark (countTail s)))) :=
    fillToLength_twoBlocks h
  rw [lastBlock, fill]
  exact ⟨rfl, rfl⟩

/-- In the one-block case FINAL keeps the buffered bytes (R133). -/
theorem finishOperation_blk_buffered (h : s.occ.toNat < 56) (a : Nat) (ha : a < s.occ.toNat) :
    (finishOperation s).blk[a] = s.blk[a] := by
  obtain ⟨-, blk⟩ := lastBlock_oneBlock s h
  have outside : a < 56 := by omega
  simp only [finishOperation_blk, blk]
  rw [storeBE_get_outside _ _ _ _ _ _ (.inl outside), padFrom_get_below _ _ _ _ _ ha]

end padding

section frames
variable {s t : State} {i : Instr} {p : Phase} {c : Cause}

/-- A command's next state by the cell it stands in. -/
theorem exec_cells (h : exec i s = .next t) :
    (∃ c, faultTable s.phase (.ok i) = some c ∧ t = raise c s) ∨
    (s.phase = .fault ∧ t = ignore s) ∨
    (permits s.phase i = true ∧ t = commandEffect i s) := by
  rw [exec_eq] at h
  cases h
  obtain ⟨c, hc, e⟩ | ⟨hp, -, e⟩ | ⟨i', hi, run, e⟩ := cellEffect_cases (.ok i) s
  · exact .inl ⟨c, hc, e⟩
  · exact .inr (.inl ⟨hp, e⟩)
  · cases hi
    exact .inr (.inr ⟨run, e⟩)

theorem faultTable_init (h : faultTable p (.ok .init) = some c) : p = .active := by
  cases p <;> simp_all [faultTable]

theorem faultTable_update {b : Byte} (h : faultTable p (.ok (.update b)) = some c) : p = .uninit ∨ p = .done := by
  cases p <;> simp_all [faultTable]

theorem faultTable_final (h : faultTable p (.ok .final) = some c) : p = .uninit ∨ p = .done := by
  cases p <;> simp_all [faultTable]

theorem faultTable_rdig {x : BitVec 5} (h : faultTable p (.ok (.rdig x)) = some c) : p = .uninit ∨ p = .active := by
  cases p <;> simp_all [faultTable]

theorem faultTable_rstat : faultTable p (.ok .rstat) = none := by
  cases p <;> rfl

/-- UPDATE stores at `occ` and nowhere else (R90). -/
theorem absorbByte_blk_ne (b : Byte) (a : Nat) (h : a < 64) (ha : a ≠ blkAddress s) :
    (absorbByte b s).blk[a] = s.blk[a] := by
  simp only [absorbByte_blk]
  exact (storeBE_byte_get ..).trans (if_neg ha)

/-- Settles O22, cell by cell. -/
theorem updateFrame : Obligations.UpdateFrame := by
  intro b s t h
  obtain ⟨c, hc, rfl⟩ | ⟨hp, rfl⟩ | ⟨run, rfl⟩ := exec_cells h
  · rcases faultTable_update hc with hp | hp <;> simp [hp]
  · simp
  · have hp := permits_update.1 run
    simp only [commandEffect]
    refine ⟨fun a ha => absorbByte_blk_ne b a a.isLt ha, fun a => by simp, fun out => absurd hp out,
      fun below => ?_, fun out => absurd hp out, fun _ => by simp, by simp, by simp⟩
    have below : s.occ ≠ 63 := below.resolve_left (not_not_intro hp)
    rw [absorbByte_H, absorbByte_bitcnt, if_neg below, if_neg below]
    exact ⟨rfl, rfl⟩

/-- Settles O36, cell by cell. -/
theorem finalFrame : Obligations.FinalFrame := by
  intro s t h
  obtain ⟨c, hc, rfl⟩ | ⟨hp, rfl⟩ | ⟨run, rfl⟩ := exec_cells h
  · rcases faultTable_final hc with hp | hp <;> simp [hp]
  · simp
  · have hp := permits_final.1 run
    simp only [commandEffect]
    exact ⟨by simp, by simp, by simp, fun one a ha => finishOperation_blk_buffered s one a ha,
      fun out => absurd hp out, fun _ => by simp⟩

/-- Settles O19, cell by cell. -/
theorem initFrame : Obligations.InitFrame := by
  intro s t h
  obtain ⟨c, hc, rfl⟩ | ⟨-, rfl⟩ | ⟨-, rfl⟩ := exec_cells h
  · simp [faultTable_init hc]
  · simp
  · simp [commandEffect]

/-- Settles O50: RSTAT only answers; RDIG answers, is ignored, or faults outside DONE. -/
theorem readoutFrame : Obligations.ReadoutFrame := by
  intro i s t hi h
  obtain ⟨c, hc, rfl⟩ | ⟨-, rfl⟩ | ⟨-, rfl⟩ := exec_cells h
  · rcases hi with rfl | ⟨x, rfl⟩
    · rw [faultTable_rstat] at hc
      cases hc
    · rcases faultTable_rdig hc with hp | hp <;> simp [hp]
  · simp
  · rcases hi with rfl | ⟨x, rfl⟩ <;> simp [commandEffect]

end frames

/-- Settles O51. -/
theorem phaseTableHolds : Obligations.PhaseTableHolds :=
  fun w s => ⟨_, acceptWord_eq w s, cellEffect_phase _ s, cellEffect_cause _ s⟩

end Sys2Proof.Machine
end

section
/-! PROOFS. The truthful poll (R154), and the only way out of FAULT (R169, R181). -/

namespace Sys2Proof.Machine

/-- STATUS[1:0] is the phase's code (R153). -/
theorem status_phaseBits (s : State) : (status s).extractLsb' 0 2 = phaseCode s.phase := by
  rw [status]
  cases s.phase <;> cases s.cause <;> decide

theorem phaseCode_eq_done {p : Phase} : phaseCode p = 2 ↔ p = .done := by
  cases p <;> decide

/-- Settles O48: the poll's phase bits give DONE, where RDIG answers and `dig` serialises the state words. -/
theorem pollIsTruthful : Obligations.PollIsTruthful := by
  intro s t r inv poll answer bits k j
  rw [exec, execRstat] at poll
  cases poll
  cases answer
  rw [status_phaseBits, phaseCode_eq_done] at bits
  have address : (digAddress (BitVec.ofNat 5 (4 * k.val + j.val))).val = 4 * k.val + j.val := by
    simp only [digAddress, BitVec.toFin_ofNat, Fin.val_ofNat]
    omega
  refine ⟨_, execRdig_done _ bits, ?_, ?_, ?_⟩
  · simp only [respond_resp, respond_dig, address]
    rw [inv bits k j]
  · simp [Good, bits]
  · simp [Good, bits]

/-- From FAULT no sequence of words leaves it or changes the cause (R168, R169). -/
theorem afterWords_from_fault (ws : List CmdWord) {s : State} (hp : s.phase = .fault) :
    (afterWords ws s).phase = .fault ∧ (afterWords ws s).cause = s.cause := by
  induction ws generalizing s with
  | nil => exact ⟨hp, rfl⟩
  | cons w ws ih =>
    obtain ⟨phase, cause⟩ := cellEffect_from_fault (decode w) hp
    obtain ⟨phase', cause'⟩ := ih phase
    exact ⟨phase', cause'.trans cause⟩

theorem afterWords_append (ws vs : List CmdWord) (s : State) :
    afterWords (ws ++ vs) s = afterWords vs (afterWords ws s) :=
  List.foldl_append

theorem endsWell_eq_true (ws : List CmdWord) (s : State) : endsWell ws s = true ↔ Good (afterWords ws s) := by
  rw [endsWell_iff, runWords_eq]
  simp

theorem endsWell_eq_false (ws : List CmdWord) (s : State) : endsWell ws s = false ↔ ¬Good (afterWords ws s) := by
  rw [← endsWell_eq_true, Bool.not_eq_true]

/-- Settles O56: words neither leave FAULT nor enter UNINIT, so only the reset move does; a run's ending is its last state's. -/
theorem onlyResetLeavesFault : Obligations.OnlyResetLeavesFault := by
  refine ⟨fun s t next => ?_, fun ws s => ?_, fun ws vs s => ?_⟩
  · obtain ⟨-, rfl⟩ | ⟨rest, move, -⟩ | ⟨w, rest, -, rfl⟩ := step_cases next
    · exact ⟨fun hp hn => absurd hp hn, fun hn hp => absurd hp hn⟩
    · exact ⟨fun _ _ => ⟨rest, move⟩, fun _ _ => ⟨rest, move⟩⟩
    · rw [cellEffect_phase]
      refine ⟨fun hp hn => ?_, fun hn hp => absurd hp (phaseTable_ne_uninit hn _)⟩
      rw [hp] at hn
      exact absurd rfl hn
  · refine ⟨afterWords ws s, runWords_eq ws s, fun good => ?_, fun bad => ?_, fun hp => ?_, fun inv => ?_⟩
    · exact ⟨runWords_eq ws s ▸ ending_good good, (endsWell_eq_true ws s).2 good⟩
    · exact ⟨runWords_eq ws s ▸ ending_faulted bad, (endsWell_eq_false ws s).2 bad⟩
    · obtain ⟨phase, cause⟩ := afterWords_from_fault ws hp
      exact ⟨not_not_intro phase, cause⟩
    · have inv : FaultInv (afterWords ws s) := engineInvariant_faultInv.words ws inv
      exact (not_congr inv.symm).trans not_not
  · rw [endsWell_eq_true, endsWell_eq_true, afterWords_append]
    exact fun good bad => good (afterWords_from_fault vs bad).1

end Sys2Proof.Machine
end

section
/-! PROOFS. The 16-word sliding window (R115): after `n` rounds it holds schedule words `n` to `n + 15`. -/

namespace Sys2Proof.Machine

section window
variable (b : Block)

/-- Schedule word `t`, for every `t`: the recurrence continued beyond 63 (R101, R102). -/
def scheduleWord (t : Nat) : Word :=
  (scheduleTo b t)[t]

/-- However far the schedule is expanded, its word `t` is the same. -/
theorem scheduleTo_get (n t : Nat) (h : t < 16 + n) : (scheduleTo b n)[t] = scheduleWord b t := by
  rcases Nat.le_total t n with reached | ahead
  · obtain ⟨k, rfl⟩ := Nat.exists_eq_add_of_le reached
    exact scheduleTo_stable b t k t (by omega)
  · obtain ⟨k, rfl⟩ := Nat.exists_eq_add_of_le ahead
    exact (scheduleTo_stable b n k (n + k) h).symm

/-- The first 16 words are the loads (R101). -/
theorem scheduleWord_load (i : Fin 16) : scheduleWord b i.val = loadWord b i := by
  have loads : (scheduleTo b 0)[i.val] = loadWord b i := by
    simp only [scheduleTo_zero, Vector.getElem_ofFn]
  exact (scheduleTo_get b 0 i.val i.isLt).symm.trans loads

/-- The recurrence (R102). -/
theorem scheduleWord_recurrence (n : Nat) :
    scheduleWord b (16 + n) =
      scheduleStep (scheduleWord b (14 + n)) (scheduleWord b (9 + n)) (scheduleWord b (1 + n)) (scheduleWord b n) := by
  have last : (scheduleTo b (n + 1))[16 + n] =
      scheduleStep (scheduleTo b n)[14 + n] (scheduleTo b n)[9 + n] (scheduleTo b n)[1 + n] (scheduleTo b n)[n] :=
    Vector.getElem_push_eq
  rw [scheduleTo_get] at last
  simp only [last, scheduleTo_get]

theorem schedule_get (t : Nat) (h : t < 64) : (schedule b)[t] = scheduleWord b t := by
  simp only [schedule_eq]
  exact scheduleTo_get b 48 t h

/-- The window after `n` rounds. -/
def windowAt (n : Nat) : Vector Word 16 :=
  Vector.ofFn fun i => scheduleWord b (n + i.val)

/-- One round of the windowed variant. -/
def windowRound (p : Working × Vector Word 16) (k : Word) : Working × Vector Word 16 :=
  (compressRound p.1 k p.2[0], windowNext p.2)

theorem windowAt_get (n i : Nat) (h : i < 16) : (windowAt b n)[i] = scheduleWord b (n + i) := by
  simp [windowAt]

theorem windowAt_zero : windowAt b 0 = Vector.ofFn fun i => loadWord b i := by
  ext1 i h
  rw [windowAt_get, Nat.zero_add, Vector.getElem_ofFn]
  exact scheduleWord_load b ⟨i, h⟩

/-- The window slides along the schedule (R115). -/
theorem windowNext_windowAt (n : Nat) : windowNext (windowAt b n) = windowAt b (n + 1) := by
  ext1 i h
  rw [windowAt_get, windowNext, Vector.getElem_ofFn]
  split
  next old => rw [windowAt_get, Nat.add_right_comm, Nat.add_assoc]
  next new =>
    have newest : n + 1 + i = 16 + n := by
      have : ¬i < 15 := new
      omega
    rw [newest, scheduleWord_recurrence]
    simp only [windowAt_get, Nat.add_comm n, Nat.zero_add]

/-- The windowed rounds are the rounds over the schedule words met on the way. -/
theorem windowRounds_eq (ks : List Word) (v : Working) (n : Nat) :
    (ks.foldl windowRound (v, windowAt b n)).1 =
      runRounds v (ks.zip ((List.range' n ks.length).map (scheduleWord b))) := by
  induction ks generalizing v n with
  | nil => rfl
  | cons k ks ih =>
    have round : windowRound (v, windowAt b n) k = (compressRound v k (scheduleWord b n), windowAt b (n + 1)) := by
      rw [windowRound, windowNext_windowAt, windowAt_get]
      rfl
    rw [List.foldl_cons, round, ih]
    rfl

theorem schedule_toList : (schedule b).toList = (List.range' 0 64).map (scheduleWord b) := by
  apply List.ext_getElem
  · simp
  · intro t h _
    simp [schedule_get]

end window

/-- Settles O30: the window is always the 16 schedule words the next rounds need. -/
theorem slidingWindowComputesCompress : Obligations.SlidingWindowComputesCompress := by
  intro H b
  have start : compressWindow H b =
      feedForward H (roundConstants.toList.foldl windowRound (workingOf H, windowAt b 0)).1 := by
    rw [windowAt_zero]
    rfl
  have length : roundConstants.toList.length = 64 := Vector.length_toList
  rw [start, windowRounds_eq, length, ← schedule_toList, compress_eq, rounds]

end Sys2Proof.Machine
end

section
/-! PROOFS. Two states of one hash operation: what they agree on decides every later answer and the digest, so that neither the
registers unspecified at reset nor an earlier operation can be seen (R31, R84, R192). -/

namespace Sys2Proof.Machine

/-- Two states hold the same hash operation: beyond the buffered bytes the blocks may differ, and so may `dig`. -/
structure SameOperation (s u : State) : Prop where
  words : s.H = u.H
  occ : s.occ = u.occ
  bitcnt : s.bitcnt = u.bitcnt
  buffered : ∀ (a : Nat) (_ : a < 64), a < s.occ.toNat → s.blk[a] = u.blk[a]

namespace SameOperation
variable {s u : State}

theorem start (s u : State) : SameOperation (startOperation s) (startOperation u) where
  words := rfl
  occ := rfl
  bitcnt := rfl
  buffered a _ ha := absurd ha (Nat.not_lt_zero a)

theorem respond (same : SameOperation s u) (r q : Option Byte) : SameOperation (respond r s) (respond q u) where
  words := same.words
  occ := same.occ
  bitcnt := same.bitcnt
  buffered := same.buffered

/-- After UPDATE's store the blocks agree up to the stored byte. -/
theorem stored (same : SameOperation s u) (b : Byte) (a : Nat) (h : a < 64) (ha : a ≤ s.occ.toNat) :
    (absorbByte b s).blk[a] = (absorbByte b u).blk[a] := by
  simp only [absorbByte_blk, storeBE_byte_get, ← same.occ]
  split
  next => rfl
  next ne => exact same.buffered a h (by omega)

/-- UPDATE of one byte keeps the operations the same: TRANSFORM runs on a block all of whose bytes agree (R91). -/
theorem absorb (same : SameOperation s u) (b : Byte) : SameOperation (absorbByte b s) (absorbByte b u) where
  words := by
    rw [absorbByte_H, absorbByte_H, ← same.occ, ← same.words]
    split
    next full =>
      have blocks : (absorbByte b s).blk = (absorbByte b u).blk := by
        ext1 a h
        have below : a ≤ s.occ.toNat := full ▸ Nat.le_of_lt_succ h
        exact same.stored b a h below
      rw [absorbByte_blk, absorbByte_blk, ← same.occ] at blocks
      rw [blocks]
    next => rfl
  occ := by rw [absorbByte_occ, absorbByte_occ, same.occ]
  bitcnt := by rw [absorbByte_bitcnt, absorbByte_bitcnt, same.occ, same.bitcnt]
  buffered a h ha := by
    rw [absorbByte_occ] at ha
    have below : a ≤ s.occ.toNat := by bv_omega
    exact same.stored b a h below

/-- The padded tails agree byte for byte, up to where the padding ends. -/
theorem padFrom_get (same : SameOperation s u) (hi a : Nat) (h : a < 64) (ha : a < hi) :
    (padFrom s.blk s.occ.toNat hi)[a] = (padFrom u.blk s.occ.toNat hi)[a] := by
  by_cases below : a < s.occ.toNat
  · rw [padFrom_get_below _ _ _ _ h below, padFrom_get_below _ _ _ _ h below, same.buffered a h below]
  · exact padFrom_get_from _ _ _ _ _ h (Nat.not_lt.1 below) ha

/-- FINAL's last TRANSFORM runs on the same words and the same block (R133, R134). -/
theorem lastBlock_eq (same : SameOperation s u) :
    (lastBlock s).H = (lastBlock u).H ∧ (lastBlock s).blk = (lastBlock u).blk := by
  rcases Nat.lt_or_ge s.occ.toNat 56 with one | two
  · obtain ⟨wordsS, blkS⟩ := lastBlock_oneBlock s one
    obtain ⟨wordsU, blkU⟩ := lastBlock_oneBlock u (same.occ ▸ one)
    refine ⟨by rw [wordsS, wordsU, same.words], ?_⟩
    rw [blkS, blkU, ← same.occ, ← same.bitcnt]
    ext1 a h
    rw [storeBE_get, storeBE_get]
    split
    next => rfl
    next outside => exact same.padFrom_get 56 a h (by omega)
  · obtain ⟨wordsS, blkS⟩ := lastBlock_twoBlocks s two
    obtain ⟨wordsU, blkU⟩ := lastBlock_twoBlocks u (same.occ ▸ two)
    have first : padFrom s.blk s.occ.toNat 64 = padFrom u.blk s.occ.toNat 64 := by
      ext1 a h
      exact same.padFrom_get 64 a h h
    rw [wordsS, wordsU, blkS, blkU, ← same.occ, ← same.bitcnt, ← same.words, first]
    exact ⟨rfl, rfl⟩

theorem finish_H (same : SameOperation s u) : (finishOperation s).H = (finishOperation u).H := by
  obtain ⟨words, blk⟩ := same.lastBlock_eq
  rw [finishOperation_H, finishOperation_H, words, blk]

/-- The digest does not depend on what `dig` held (R138). -/
theorem finish_dig (same : SameOperation s u) : (finishOperation s).dig = (finishOperation u).dig := by
  rw [finishOperation_dig, finishOperation_dig, same.finish_H, serialise_eq, serialise_eq]

theorem finish_bitcnt (same : SameOperation s u) : (finishOperation s).bitcnt = (finishOperation u).bitcnt := by
  rw [finishOperation_bitcnt, finishOperation_bitcnt, same.bitcnt, same.occ]

theorem finish_occ (same : SameOperation s u) : (finishOperation s).occ = (finishOperation u).occ := by
  rw [finishOperation_occ, finishOperation_occ, same.occ]

end SameOperation

section operation
variable {s : State}

theorem decode_encode (i : Instr) : decode (encode i) = .ok i := by
  have update : ∀ b : Byte, decode (encode (.update b)) = .ok (.update b) := by decide +kernel
  have rdig : ∀ x : BitVec 5, decode (encode (.rdig x)) = .ok (.rdig x) := by decide +kernel
  cases i with
  | init => rfl
  | update b => exact update b
  | final => rfl
  | rdig x => exact rdig x
  | rstat => rfl

/-- The effect of a run of UPDATEs in ACTIVE (R94). -/
def absorbAll (bs : List Byte) (s : State) : State :=
  bs.foldl (fun s b => absorbByte b s) s

@[simp] theorem absorbAll_phase (bs : List Byte) (s : State) : (absorbAll bs s).phase = s.phase := by
  induction bs generalizing s with
  | nil => rfl
  | cons b bs ih => exact (ih _).trans (absorbByte_phase b s)

theorem SameOperation.absorbAll {u : State} (same : SameOperation s u) (bs : List Byte) :
    SameOperation (absorbAll bs s) (absorbAll bs u) := by
  induction bs generalizing s u with
  | nil => exact same
  | cons b bs ih => exact ih (same.absorb b)

/-- An encoded command in a cell in which it runs. -/
theorem afterWords_encode_cons {i : Instr} (run : permits s.phase i = true) (ws : List CmdWord) :
    afterWords (encode i :: ws) s = afterWords ws (commandEffect i s) := by
  rw [afterWords, List.foldl_cons, decode_encode, cellEffect_runs run]
  rfl

theorem afterWords_sliceWords (hp : s.phase = .active) (bs : List Byte) :
    afterWords (sliceWords bs) s = absorbAll bs s := by
  induction bs generalizing s with
  | nil => rfl
  | cons b bs ih =>
    have run : permits s.phase (.update b) = true := permits_update.2 hp
    exact (afterWords_encode_cons run _).trans (ih ((absorbByte_phase b s).trans hp))

/-- INIT, the message's bytes and FINAL, one after the other (R72). -/
theorem afterWords_operation (hp : s.phase = .uninit ∨ s.phase = .done) (m : List Byte) :
    afterWords (encode .init :: sliceWords m ++ [encode .final]) s = finishOperation (absorbAll m (startOperation s)) := by
  have active : (absorbAll m (startOperation s)).phase = .active := absorbAll_phase m _
  rw [List.cons_append, afterWords_encode_cons (permits_init.2 hp), afterWords_append, commandEffect,
    afterWords_sliceWords (startOperation_phase s), afterWords_encode_cons (permits_final.2 active)]
  rfl

/-- Settles O41: INIT makes the two operations the same, each byte keeps them so, FINAL gives one digest. -/
theorem messageDeterminesDigest : Obligations.MessageDeterminesDigest := by
  intro m s u hs hu
  have same := (SameOperation.start s u).absorbAll m
  refine ⟨_, _, runWords_eq _ s, runWords_eq _ u, ?_⟩
  rw [afterWords_operation hs, afterWords_operation hu]
  exact ⟨by simp [Good], by simp [Good], finishOperation_phase _, finishOperation_phase _, same.finish_dig, same.finish_H, same.finish_bitcnt, same.finish_occ⟩

end operation

/-- Two states no host can tell apart: one phase, one cause, in ACTIVE one operation, in DONE one digest. -/
structure Indistinguishable (s u : State) : Prop where
  phase : s.phase = u.phase
  cause : s.cause = u.cause
  operation : s.phase = .active → SameOperation s u
  digest : s.phase = .done → s.dig = u.dig

namespace Indistinguishable
variable {s u : State}

theorem respond (ind : Indistinguishable s u) (r q : Option Byte) :
    Indistinguishable (respond r s) (respond q u) where
  phase := ind.phase
  cause := ind.cause
  operation hp := (ind.operation hp).respond r q
  digest := ind.digest

theorem raise (c : Cause) (s u : State) : Indistinguishable (raise c s) (raise c u) where
  phase := rfl
  cause := rfl
  operation := nofun
  digest := nofun

theorem start (ind : Indistinguishable s u) : Indistinguishable (startOperation s) (startOperation u) where
  phase := rfl
  cause := ind.cause
  operation _ := SameOperation.start s u
  digest := nofun

theorem absorb (ind : Indistinguishable s u) (hp : s.phase = .active) (b : Byte) :
    Indistinguishable (absorbByte b s) (absorbByte b u) where
  phase := by simp [ind.phase]
  cause := by simp [ind.cause]
  operation _ := (ind.operation hp).absorb b
  digest hd := by simp [hp] at hd

theorem finish (ind : Indistinguishable s u) (hp : s.phase = .active) :
    Indistinguishable (finishOperation s) (finishOperation u) where
  phase := by simp
  cause := by simp [ind.cause]
  operation active := by simp at active
  digest _ := (ind.operation hp).finish_dig

/-- A command that runs answers alike in both. -/
theorem command (ind : Indistinguishable s u) {i : Instr} (run : permits s.phase i = true) :
    (commandEffect i s).resp = (commandEffect i u).resp ∧
    Indistinguishable (commandEffect i s) (commandEffect i u) := by
  cases i with
  | init => exact ⟨rfl, ind.start⟩
  | update b => exact ⟨by simp [commandEffect], ind.absorb (permits_update.1 run) b⟩
  | final => exact ⟨by simp [commandEffect], ind.finish (permits_final.1 run)⟩
  | rdig x =>
    have digest := ind.digest (permits_rdig.1 run)
    exact ⟨by simp [commandEffect, digest], ind.respond _ _⟩
  | rstat => exact ⟨by simp [commandEffect, status, ind.phase, ind.cause], ind.respond _ _⟩

/-- A word answers alike in both: its cell is that of their one phase. -/
theorem word (ind : Indistinguishable s u) (d : Except Reserved Instr) :
    (cellEffect d s).resp = (cellEffect d u).resp ∧ Indistinguishable (cellEffect d s) (cellEffect d u) := by
  obtain ⟨c, hc, e⟩ | ⟨hp, hd, e⟩ | ⟨i, rfl, run, e⟩ := cellEffect_cases d s
  · rw [e, cellEffect_faults (ind.phase ▸ hc)]
    exact ⟨rfl, raise c s u⟩
  · rw [e, cellEffect_ignored (ind.phase ▸ hp) hd]
    exact ⟨rfl, ind.respond none none⟩
  · rw [e, cellEffect_runs (ind.phase ▸ run)]
    exact ind.command run

theorem words (ind : Indistinguishable s u) (ws : List CmdWord) :
    responses ws s = responses ws u ∧ Indistinguishable (afterWords ws s) (afterWords ws u) := by
  induction ws generalizing s u with
  | nil => exact ⟨rfl, ind⟩
  | cons w ws ih =>
    obtain ⟨answer, next⟩ := ind.word (decode w)
    obtain ⟨answers, last⟩ := ih next
    rw [responses_cons, responses_cons, answer, answers]
    exact ⟨rfl, last⟩

end Indistinguishable

/-- Settles O42: states in UNINIT with one cause cannot be told apart, and no word changes that. -/
theorem unspecifiedRegistersAreUnobservable : Obligations.UnspecifiedRegistersAreUnobservable := by
  intro ws s u hs hu cause
  have start : Indistinguishable s u :=
    { phase := hs.trans hu.symm, cause := cause
      operation := fun active => by simp [hs] at active
      digest := fun done => by simp [hs] at done }
  obtain ⟨answers, last⟩ := start.words ws
  refine ⟨answers, _, _, runWords_eq ws s, runWords_eq ws u, ?_, last.phase, last.cause⟩
  rw [Good, Good, last.phase]

end Sys2Proof.Machine
end

section
/-! PROOFS. The message a state has absorbed: INIT begins it, each UPDATE appends its byte (R15, R80, R90, R94). -/

namespace Sys2Proof.Machine

/-- INIT absorbs nothing, from any state. -/
theorem absorbed_startOperation (s : State) : Absorbed [] (startOperation s) where
  phase := rfl
  words := (compressBlocks_zero _ _).symm
  occ := rfl
  bitcnt := rfl
  tail a ha := absurd ha (Nat.not_lt_zero a.val)

section absorbed
variable {m : List Byte} {s : State}

/-- After UPDATE's store the block holds the last `len mod 64 + 1` bytes of the longer message. -/
theorem Absorbed.stored (abs : Absorbed m s) (b : Byte) (a : Nat) (h : a < 64) (ha : a ≤ m.length % 64) :
    some (absorbByte b s).blk[a] = (m ++ [b])[64 * (m.length / 64) + a]? := by
  simp only [absorbByte_blk, storeBE_byte_get, abs.occ]
  split
  next last =>
    have index : 64 * (m.length / 64) + a = m.length := by omega
    rw [index, List.getElem?_concat_length]
  next ne =>
    have old : a < m.length % 64 := by omega
    have inside : 64 * (m.length / 64) + a < m.length := by omega
    rw [List.getElem?_append_left inside]
    exact abs.tail ⟨a, h⟩ old

/-- At the boundary the stored block is a whole block of the longer message. -/
theorem Absorbed.stored_eq_blockAt (abs : Absorbed m s) (b : Byte) (full : m.length % 64 = 63) :
    (absorbByte b s).blk = blockAt (m ++ [b]) (m.length / 64) := by
  ext1 a h
  have stored := abs.stored b a h (by omega)
  rw [blockAt_get, List.getD_eq_getElem?_getD, ← stored, Option.getD_some]

theorem Absorbed.append (abs : Absorbed m s) (b : Byte) : Absorbed (m ++ [b]) (absorbByte b s) := by
  have length : (m ++ [b]).length = m.length + 1 := List.length_append
  have blocks : compressBlocks (m ++ [b]) (m.length / 64) iv = s.H := by
    rw [abs.words, compressBlocks_append _ _ _ _ (by omega)]
  have boundary : s.occ = 63 ↔ m.length % 64 = 63 := by
    rw [← abs.occ]
    bv_omega
  by_cases full : m.length % 64 = 63
  · have quotient : (m.length + 1) / 64 = m.length / 64 + 1 := by omega
    have remainder : (m.length + 1) % 64 = 0 := by omega
    constructor
    case phase => rw [absorbByte_phase, abs.phase]
    case words =>
      rw [length, quotient, compressBlocks_succ, blocks, ← abs.stored_eq_blockAt b full, absorbByte_H,
        if_pos (boundary.2 full), absorbByte_blk]
    case occ =>
      rw [length, remainder, absorbByte_occ, boundary.2 full]
      rfl
    case bitcnt =>
      rw [length, quotient, absorbByte_bitcnt, if_pos (boundary.2 full), abs.bitcnt, Nat.mul_succ,
        BitVec.ofNat_add]
      rfl
    case tail =>
      rw [length, remainder]
      exact fun a ha => absurd ha (Nat.not_lt_zero a.val)
  · have below : ¬s.occ = 63 := fun h => full (boundary.1 h)
    have quotient : (m.length + 1) / 64 = m.length / 64 := by omega
    have remainder : (m.length + 1) % 64 = m.length % 64 + 1 := by omega
    constructor
    case phase => rw [absorbByte_phase, abs.phase]
    case words => rw [length, quotient, blocks, absorbByte_H, if_neg below]
    case occ =>
      rw [length, remainder, absorbByte_occ, ← abs.occ]
      bv_omega
    case bitcnt => rw [length, quotient, absorbByte_bitcnt, if_neg below, abs.bitcnt]
    case tail =>
      rw [length, quotient, remainder]
      exact fun a ha => abs.stored b a a.isLt (Nat.le_of_lt_succ ha)

end absorbed

/-- Settles O37. -/
theorem initAbsorbsNothing : Obligations.InitAbsorbsNothing :=
  fun s hp => ⟨startOperation s, execInit_starts hp, absorbed_startOperation s⟩

/-- Settles O38, with the block boundary as the one case in which a block is compressed. -/
theorem updateExtendsMessage : Obligations.UpdateExtendsMessage :=
  fun _ b s abs => ⟨absorbByte b s, execUpdate_active b abs.phase, abs.append b⟩

end Sys2Proof.Machine
end

section
/-! PROOFS. The machine's steps as the fold of the host's moves (R54, R60, R62): no effect of the engine reads or writes the list of
moves, so taking a move off it changes nothing else. -/

namespace Sys2Proof.Machine

section withHost
variable (s : State) (rest : List HostMove)

theorem absorbByte_withHost (b : Byte) :
    absorbByte b { s with host := rest } = { absorbByte b s with host := rest } := by
  rw [absorbByte, absorbByte]
  split <;> rfl

theorem fillToLength_withHost : fillToLength { s with host := rest } = { fillToLength s with host := rest } := by
  rw [fillToLength, fillToLength]
  split <;> rfl

theorem finishOperation_withHost :
    finishOperation { s with host := rest } = { finishOperation s with host := rest } := by
  have filled : fillToLength (mark (countTail { s with host := rest })) =
      { fillToLength (mark (countTail s)) with host := rest } := fillToLength_withHost (mark (countTail s)) rest
  rw [finishOperation, filled]
  rfl

theorem commandEffect_withHost (i : Instr) :
    commandEffect i { s with host := rest } = { commandEffect i s with host := rest } := by
  cases i with
  | init => rfl
  | update b => exact absorbByte_withHost s rest b
  | final => exact finishOperation_withHost s rest
  | rdig x => rfl
  | rstat => rfl

/-- A word's effect neither reads nor writes the moves still to come (R60). -/
theorem cellEffect_withHost (d : Except Reserved Instr) :
    cellEffect d { s with host := rest } = { cellEffect d s with host := rest } := by
  obtain ⟨c, fault, effect⟩ | ⟨phase, silent, effect⟩ | ⟨i, rfl, run, effect⟩ := cellEffect_cases d s
  · rw [effect]
    exact cellEffect_faults fault
  · rw [effect]
    exact cellEffect_ignored phase silent
  · rw [effect, ← commandEffect_withHost]
    exact cellEffect_runs run

end withHost

/-- What one move of the host does to the engine (R205). -/
def moveEffect : HostMove → State → State
  | .issue w, s => cellEffect (decode w) s
  | .reset, s => resetEvent s

theorem accept_eq (m : HostMove) (s : State) : accept m s = .next (moveEffect m s) := by
  cases m with
  | issue w => exact acceptWord_eq w s
  | reset => rfl

/-- A move's effect neither reads nor writes the moves still to come. -/
theorem moveEffect_withHost (m : HostMove) (s : State) (rest : List HostMove) :
    moveEffect m { s with host := rest } = { moveEffect m s with host := rest } := by
  cases m with
  | issue w => exact cellEffect_withHost s rest (decode w)
  | reset => rfl

theorem runMoves_cons (m : HostMove) (ms : List HostMove) (s : State) :
    runMoves (m :: ms) s = runMoves ms (moveEffect m s) := by
  rw [runMoves, accept_eq]

/-- A step takes the first move off the list and carries it out (R60). -/
theorem step_withMove (m : HostMove) (rest : List HostMove) (s : State) :
    step { s with host := m :: rest } = .next { moveEffect m s with host := rest } := by
  rw [← moveEffect_withHost]
  exact accept_eq m { s with host := rest }

theorem run_succ_of_step {s t : State} (h : step s = .next t) (n : Nat) : core.run (n + 1) s = core.run n t := by
  have stepped : core.step s = .next t := h
  simp only [Host.Core.run, stepped]

/-- Settles O14, by induction on the moves: one step is one move of the fold. -/
theorem stepsFoldHostMoves : Obligations.StepsFoldHostMoves := by
  intro ms rest s
  induction ms generalizing s with
  | nil => rfl
  | cons m ms ih =>
    have first : core.run (ms.length + 1) { s with host := m :: (ms ++ rest) } =
        core.run ms.length { moveEffect m s with host := ms ++ rest } :=
      run_succ_of_step (step_withMove m (ms ++ rest) s) ms.length
    have fold : runMoves (m :: ms) { s with host := rest } = runMoves ms { moveEffect m s with host := rest } := by
      rw [runMoves_cons, moveEffect_withHost]
    rw [fold]
    exact first.trans (ih (moveEffect m s))

end Sys2Proof.Machine
end

section
/-! PROOFS. The message schedule of a block, word by word (R101, R102). -/

namespace Sys2Proof.Machine

/-- Settles O25, from the schedule word at every position: a load below 16, a step of the recurrence from there on. -/
theorem scheduleFollowsRecurrence : Obligations.ScheduleFollowsRecurrence := by
  intro b
  constructor
  · intro i h
    rw [schedule_get, scheduleWord_load b ⟨i, h⟩, loadWord_eq_append]
  · intro t start h
    obtain ⟨n, rfl⟩ := Nat.exists_eq_add_of_le start
    have two : 16 + n - 2 = 14 + n := by omega
    have seven : 16 + n - 7 = 9 + n := by omega
    have fifteen : 16 + n - 15 = 1 + n := by omega
    have sixteen : 16 + n - 16 = n := by omega
    simp only [schedule_get, two, seven, fifteen, sixteen]
    exact scheduleWord_recurrence b n

end Sys2Proof.Machine
end

section
/-! PROOFS. The encoding by fields: a word decodes to a command iff `op` is its row's opcode and `imm` its operand (R61, R64, R65).
The opcode map's rows, the legal words and the reserved ranges are read off that (R65 to R67). -/

namespace Sys2Proof

open Machine

/-- `imm` of a command's word, by format (R64): Z has 0, B the byte, X the index in its low 5 bits. -/
def operandOf : Instr → Byte
  | .init => 0
  | .update b => b
  | .final => 0
  | .rdig x => x.setWidth 8
  | .rstat => 0

section fields
variable {w : CmdWord} {i : Instr}

/-- A command's word is `op || imm` (R61). -/
theorem encode_eq_append (i : Instr) : encode i = opcodeOf i ++ operandOf i := by
  have update : ∀ b : Byte, encode (.update b) = 2#8 ++ b := by decide +kernel
  have rdig : ∀ x : BitVec 5, encode (.rdig x) = 4#8 ++ x.setWidth 8 := by decide +kernel
  cases i with
  | init => rfl
  | update b => exact update b
  | final => rfl
  | rdig x => exact rdig x
  | rstat => rfl

theorem encode_eq_iff : encode i = w ↔ opOf w = opcodeOf i ∧ immOf w = operandOf i := by
  rw [encode_eq_append, ← opOf_append_immOf w, word_append_inj, opOf_append, immOf_append, eq_comm, eq_comm (a := operandOf i)]

/-- An index in range survives the cut to 5 bits (R64). -/
theorem setWidth_extractLsb'_of_lt {b : Byte} (h : b.toNat < 32) : (b.extractLsb' 0 5).setWidth 8 = b := by
  have all : ∀ b : Byte, b.toNat < 32 → (b.extractLsb' 0 5).setWidth 8 = b := by decide +kernel
  exact all b h

theorem encode_of_decode (h : decode w = .ok i) : encode i = w := by
  rw [encode_eq_iff]
  rw [decode_fields] at h
  split_ifs at h with op imm op op imm op imm op imm <;> cases h
  · exact ⟨op, imm⟩
  · exact ⟨op, rfl⟩
  · exact ⟨op, imm⟩
  · exact ⟨op, (setWidth_extractLsb'_of_lt imm).symm⟩
  · exact ⟨op, imm⟩

/-- Settles O1: `decode_encode`, command by command. -/
theorem decodeEncodeRoundTrip : Obligations.DecodeEncodeRoundTrip :=
  decode_encode

/-- Settles O2: each branch of the decoder fixes `op` and `imm`. -/
theorem decodedWordIsItsEncoding : Obligations.DecodedWordIsItsEncoding :=
  fun _ _ h => encode_of_decode h

theorem decode_eq_ok_iff : decode w = .ok i ↔ opOf w = opcodeOf i ∧ immOf w = operandOf i := by
  rw [← encode_eq_iff]
  constructor
  · exact encode_of_decode
  · rintro rfl
    exact decode_encode i

/-- The operands of format X are the bytes below 32 (R64). -/
theorem exists_index_iff (b : Byte) : (∃ x : BitVec 5, b = x.setWidth 8) ↔ b.toNat < 32 := by
  constructor
  · rintro ⟨x, rfl⟩
    rw [BitVec.toNat_setWidth]
    omega
  · intro h
    exact ⟨_, (setWidth_extractLsb'_of_lt h).symm⟩

theorem decodes_update_iff : (∃ b, decode w = .ok (.update b)) ↔ opOf w = 2 := by
  simp only [decode_eq_ok_iff, opcodeOf, operandOf, exists_and_left, exists_eq', and_true]

theorem decodes_rdig_iff : (∃ x, decode w = .ok (.rdig x)) ↔ opOf w = 4 ∧ (immOf w).toNat < 32 := by
  simp only [decode_eq_ok_iff, opcodeOf, operandOf, exists_and_left, exists_index_iff]

end fields

section rows
variable {w : CmdWord}

/-- A row's test is one on each field (R61, R65). -/
theorem and_append_eq_iff (mh ml vh vl : Byte) :
    w &&& (mh ++ ml) = vh ++ vl ↔ opOf w &&& mh = vh ∧ immOf w &&& ml = vl := by
  conv_lhs => rw [← opOf_append_immOf w, BitVec.and_append]
  exact word_append_inj ..

/-- A row whose mask is all ones fixes both fields. -/
theorem and_full_eq_iff (vh vl : Byte) : w &&& 0xFFFF = vh ++ vl ↔ opOf w = vh ∧ immOf w = vl := by
  have full (b : Byte) : b &&& 0xFF = b := BitVec.and_allOnes
  have fields := and_append_eq_iff (w := w) 0xFF 0xFF vh vl
  rwa [full, full] at fields

theorem and_updateRow_eq_iff : w &&& 0xFF00 = 0x0200 ↔ opOf w = 2 := by
  have full : opOf w &&& 0xFF = opOf w := BitVec.and_allOnes
  have empty : immOf w &&& 0 = 0 := BitVec.and_zero
  have fields := and_append_eq_iff (w := w) 0xFF 0 2 0
  rwa [full, empty, and_iff_left rfl] at fields

theorem and_rdigRow_eq_iff : w &&& 0xFFE0 = 0x0400 ↔ opOf w = 4 ∧ (immOf w).toNat < 32 := by
  have full : opOf w &&& 0xFF = opOf w := BitVec.and_allOnes
  have top : ∀ b : Byte, b &&& 0xE0 = 0 ↔ b.toNat < 32 := by decide +kernel
  have fields := and_append_eq_iff (w := w) 0xFF 0xE0 4 0
  rwa [full, top] at fields

/-- Two rows that ask different values of a bit both of them test share no word (R65). -/
theorem rows_disjoint {m v n u : CmdWord} (clash : v &&& n ≠ u &&& m) : ¬(w &&& m = v ∧ w &&& n = u) := by
  rintro ⟨rfl, rfl⟩
  exact clash (by ac_rfl)

/-- Settles O3: each row's test reads as the fields of its command; any two rows clash on a common bit. -/
theorem opcodeMapSelectsCommand : Obligations.OpcodeMapSelectsCommand := by
  refine ⟨fun w => ⟨?_, ?_, ?_, ?_, ?_⟩, fun w => ?_⟩
  · exact decode_eq_ok_iff.trans (and_full_eq_iff 1 0).symm
  · exact decodes_update_iff.trans and_updateRow_eq_iff.symm
  · exact decode_eq_ok_iff.trans (and_full_eq_iff 3 0).symm
  · exact decodes_rdig_iff.trans and_rdigRow_eq_iff.symm
  · exact decode_eq_ok_iff.trans (and_full_eq_iff 5 0).symm
  · have clash : [((0xFFFF, 0x0100) : CmdWord × CmdWord), (0xFF00, 0x0200), (0xFFFF, 0x0300), (0xFFE0, 0x0400),
        (0xFFFF, 0x0500)].Pairwise fun r q => r.2 &&& q.1 ≠ q.2 &&& r.1 := by decide
    exact clash.imp rows_disjoint

end rows

section legalWords
variable {w : CmdWord}

/-- There is a command with a property iff one of the five rows has one. -/
theorem exists_instr_iff (P : Instr → Prop) :
    (∃ i, P i) ↔ P .init ∨ (∃ b, P (.update b)) ∨ P .final ∨ (∃ x, P (.rdig x)) ∨ P .rstat := by
  constructor
  · rintro ⟨i, hi⟩
    cases i with
    | init => exact .inl hi
    | update b => exact .inr (.inl ⟨b, hi⟩)
    | final => exact .inr (.inr (.inl hi))
    | rdig x => exact .inr (.inr (.inr (.inl ⟨x, hi⟩)))
    | rstat => exact .inr (.inr (.inr (.inr hi)))
  · rintro (h | ⟨b, h⟩ | h | ⟨x, h⟩ | h) <;> exact ⟨_, h⟩

/-- R66's closed form. -/
theorem decodes_iff : (∃ i, decode w = .ok i) ↔
    (opOf w = 1 ∧ immOf w = 0) ∨ opOf w = 2 ∨ (opOf w = 3 ∧ immOf w = 0) ∨
      (opOf w = 4 ∧ (immOf w).toNat < 32) ∨ (opOf w = 5 ∧ immOf w = 0) := by
  rw [exists_instr_iff, decodes_update_iff, decodes_rdig_iff, decode_eq_ok_iff, decode_eq_ok_iff, decode_eq_ok_iff]
  rfl

/-- Every command once: three of format Z, 256 UPDATEs, 32 RDIGs (R65). -/
def allInstrs : List Instr :=
  [.init, .final, .rstat] ++ (List.finRange 256).map (fun b => .update (.ofFin b)) ++
    (List.finRange 32).map (fun x => .rdig (.ofFin x))

theorem mem_allInstrs (i : Instr) : i ∈ allInstrs := by
  have update (b : Byte) : ∃ n : Fin 256, BitVec.ofFin n = b := ⟨b.toFin, rfl⟩
  have rdig (x : BitVec 5) : ∃ n : Fin 32, BitVec.ofFin n = x := ⟨x.toFin, rfl⟩
  cases i with
  | init => simp [allInstrs]
  | update b => simp [allInstrs, update b]
  | final => simp [allInstrs]
  | rdig x => simp [allInstrs, rdig x]
  | rstat => simp [allInstrs]

theorem length_allInstrs : allInstrs.length = 291 := by
  simp [allInstrs]

theorem nodup_allInstrs : allInstrs.Nodup := by
  have updates : ((List.finRange 256).map fun b => Instr.update (.ofFin b)).Nodup :=
    (List.nodup_finRange 256).map fun _ _ h => by simpa using h
  have rdigs : ((List.finRange 32).map fun x => Instr.rdig (.ofFin x)).Nodup :=
    (List.nodup_finRange 32).map fun _ _ h => by simpa using h
  simp [allInstrs, List.nodup_append, updates, rdigs]

/-- Settles O4: the legal words are the encodings of the 291 commands. -/
theorem legalWordsInClosedForm : Obligations.LegalWordsInClosedForm := by
  have injective : Function.Injective encode := fun i j h => by
    have decoded := congrArg decode h
    rw [decode_encode, decode_encode] at decoded
    exact Except.ok.inj decoded
  refine ⟨fun w => decodes_iff, allInstrs.map encode, nodup_allInstrs.map injective, ?_, fun w => ?_⟩
  · rw [List.length_map, length_allInstrs]
  · simp only [List.mem_map, mem_allInstrs, true_and, decode_eq_ok_iff, encode_eq_iff]

end legalWords

section reservedWords
variable {w : CmdWord}

/-- A word's number by its fields (R61). -/
theorem toNat_eq_fields (w : CmdWord) : w.toNat = 256 * (opOf w).toNat + (immOf w).toNat := by
  have bound := w.isLt
  simp only [opOf, immOf, BitVec.extractLsb'_toNat, Nat.shiftRight_eq_div_pow]
  omega

/-- R67's ranges are the complement of R66's closed form. -/
theorem reserved_iff : (∀ i, decode w ≠ .ok i) ↔
    opOf w = 0x00 ∨ 0x06 ≤ (opOf w).toNat ∨ (0x0101 ≤ w.toNat ∧ w.toNat ≤ 0x01FF) ∨
      (0x0301 ≤ w.toNat ∧ w.toNat ≤ 0x03FF) ∨ (0x0420 ≤ w.toNat ∧ w.toNat ≤ 0x04FF) ∨
      (0x0501 ≤ w.toNat ∧ w.toNat ≤ 0x05FF) := by
  have number := toNat_eq_fields w
  have op := (opOf w).isLt
  have imm := (immOf w).isLt
  rw [← not_exists, decodes_iff]
  simp only [BitVec.toNat_eq, BitVec.ofNat_eq_ofNat, BitVec.toNat_ofNat]
  omega

theorem decode_of_reserved (h : ∀ i, decode w ≠ .ok i) : ∃ r, decode w = .error r := by
  rcases hd : decode w with r | i
  · exact ⟨r, rfl⟩
  · exact absurd hd (h i)

/-- A reserved word faults in every phase but FAULT (R162). -/
theorem acceptWord_reserved {s : State} (h : ∀ i, decode w ≠ .ok i) (hp : s.phase ≠ .fault) :
    acceptWord w s = .next (raise .illegalCmd s) := by
  obtain ⟨r, hr⟩ := decode_of_reserved h
  simp only [acceptWord, hr, acceptReserved, if_neg hp]

/-- Settles O5, from the complement of the closed form. -/
theorem reservedWordsFault : Obligations.ReservedWordsFault := by
  refine ⟨fun w => reserved_iff, fun i => ⟨?_, ?_⟩, fun w s h hp => acceptWord_reserved h hp⟩
  · exact reserved_iff.2 (by decide) i
  · exact reserved_iff.2 (by decide) i

/-- Settles O7. -/
theorem decodeOfWrittenWords : Obligations.DecodeOfWrittenWords := by
  unfold Obligations.DecodeOfWrittenWords
  decide

end reservedWords

end Sys2Proof
end

section
/-! PROOFS. A word on the port and a step of the machine run the command the word decodes to (R60, R74, R202); the assembler's words
are encodings of commands (R71, R72). -/

namespace Sys2Proof.Machine

section port
variable {w : CmdWord} {i : Instr} {s : State}

/-- Settles O9. -/
theorem stepRunsDecodedCommand : Obligations.StepRunsDecodedCommand := by
  intro s w i rest move hd
  have issued : step s = acceptWord w { s with host := rest } := by
    rw [step, takeMove, move]
    rfl
  rw [issued, acceptWord, hd]

theorem step_completes (s : State) : ∃ t, step s = .next t := by
  rw [step, takeMove]
  cases s.host with
  | nil => exact ⟨s, rfl⟩
  | cons m rest => exact ⟨_, accept_eq m _⟩

/-- Settles O13: no branch of the port or of a meaning stops the machine. -/
theorem everyStepCompletes : Obligations.EveryStepCompletes :=
  ⟨step_completes, fun w s => ⟨_, acceptWord_eq w s⟩⟩

/-- A word in a cell in which its command runs. -/
theorem acceptWord_runs (hd : decode w = .ok i) (run : permits s.phase i = true) :
    acceptWord w s = .next (commandEffect i s) := by
  rw [acceptWord_eq, hd, cellEffect_runs run]

/-- UPDATE's byte stands where `occ` pointed (R90). -/
theorem absorbByte_blk_occ (b : Byte) (s : State) : (absorbByte b s).blk[s.occ.toNat] = b := by
  simp only [absorbByte_blk]
  rw [storeBE_byte_get, if_pos rfl]

/-- Settles O6: the operand is `imm` by the word's fields, and the meaning uses it as it stands. -/
theorem operandsUsedAsTheyStand : Obligations.OperandsUsedAsTheyStand := by
  refine ⟨fun w b s hd hp => ?_, fun w x s hd hp => ?_⟩
  · obtain ⟨-, imm⟩ := decode_eq_ok_iff.1 hd
    refine ⟨imm.symm, _, acceptWord_runs hd (permits_update.2 hp), ?_⟩
    exact (absorbByte_blk_occ b s).trans imm.symm
  · obtain ⟨-, imm⟩ := decode_eq_ok_iff.1 hd
    refine ⟨imm.symm, _, acceptWord_runs hd (permits_rdig.2 hp), ?_⟩
    have address : (immOf w).toNat = (digAddress x).val := by
      rw [imm, operandOf, BitVec.toNat_setWidth_of_le (by decide)]
      rfl
    rw [address, Vector.getElem?_eq_getElem (digAddress x).isLt]
    rfl

end port

section assembler

/-- An UPDATE's operand is refused iff it exceeds a byte (R71). -/
theorem asmByte_eq_none (n : Nat) : asmByte n = none ↔ ¬n ≤ 255 := by
  simp [asmByte]

theorem asmIndex_eq_none (n : Nat) : asmIndex n = none ↔ ¬n ≤ 31 := by
  simp [asmIndex]

/-- A list of operands is refused iff one of them is (R71, R72). -/
theorem mapM_asmByte_eq_none (ns : List Nat) : ns.mapM asmByte = none ↔ ns.all (· ≤ 255) = false := by
  induction ns with
  | nil => simp
  | cons n ns ih =>
    rw [List.mapM_cons, List.all_cons]
    by_cases hn : n ≤ 255
    · have byte : asmByte n = some (BitVec.ofNat 8 n) := if_pos hn
      cases hns : ns.mapM asmByte <;> simp_all
    · simp [(asmByte_eq_none n).2 hn, hn]

/-- Every word of the list is some command's encoding. -/
def Encoded (ws : List CmdWord) : Prop :=
  ∀ w ∈ ws, ∃ i, w = encode i

theorem encoded_singleton (i : Instr) : Encoded [encode i] := by
  intro w hw
  exact ⟨i, List.mem_singleton.1 hw⟩

theorem encoded_sliceWords (bs : List Byte) : Encoded (sliceWords bs) := by
  intro w hw
  obtain ⟨b, -, rfl⟩ := List.mem_map.1 hw
  exact ⟨.update b, rfl⟩

theorem encoded_rdigAllWords : Encoded rdigAllWords := by
  intro w hw
  obtain ⟨x, -, rfl⟩ := List.mem_map.1 hw
  exact ⟨_, rfl⟩

theorem Encoded.append {ws vs : List CmdWord} (hw : Encoded ws) (hv : Encoded vs) : Encoded (ws ++ vs) :=
  fun w h => (List.mem_append.1 h).elim (hw w) (hv w)

theorem Encoded.cons {ws : List CmdWord} (i : Instr) (hw : Encoded ws) : Encoded (encode i :: ws) :=
  (encoded_singleton i).append hw

theorem encoded_hashWords (bs : List Byte) : Encoded (hashWords bs) :=
  ((encoded_sliceWords bs).cons _).append (encoded_rdigAllWords.cons _)

theorem encoded_assemble {line : AsmLine} {ws : List CmdWord} (h : assemble line = some ws)
    (written : ∀ w, line ≠ .word w) : Encoded ws := by
  cases line with
  | init | final | rstat | poll =>
    cases h
    exact encoded_singleton _
  | update n | rdig n =>
    obtain ⟨_, -, rfl⟩ := Option.map_eq_some_iff.1 h
    exact encoded_singleton _
  | word w => exact absurd rfl (written w)
  | updateS ns =>
    obtain ⟨bs, -, rfl⟩ := Option.map_eq_some_iff.1 h
    exact encoded_sliceWords bs
  | rdigAll =>
    cases h
    exact encoded_rdigAllWords
  | hash ns =>
    obtain ⟨bs, -, rfl⟩ := Option.map_eq_some_iff.1 h
    exact encoded_hashWords bs

/-- Settles O8: only an operand can be refused, and every other line than `.word` encodes commands. -/
theorem assemblerEmitsLegalWords : Obligations.AssemblerEmitsLegalWords := by
  refine ⟨fun line => ?_, fun line ws h written w hw => ?_⟩
  · cases line with
    | init | final | rstat | poll | rdigAll | word => simp [assemble, AsmLine.wellFormed]
    | update n => simp [assemble, AsmLine.wellFormed, asmByte_eq_none]
    | rdig n => simp [assemble, AsmLine.wellFormed, asmIndex_eq_none]
    | updateS ns | hash ns => exact Option.map_eq_none_iff.trans (mapM_asmByte_eq_none ns)
  · obtain ⟨i, rfl⟩ := encoded_assemble h written w hw
    exact ⟨i, decode_encode i⟩

end assembler

end Sys2Proof.Machine
end

section
/-! PROOFS. The slice view of UPDATE (R94, R95): the message absorbed since a state in ACTIVE, whatever its state words and counter. -/

namespace Sys2Proof.Machine

/-- A member of the state that UPDATE does not write is kept by a run of UPDATEs. -/
theorem absorbAll_keeps {α : Type} {f : State → α} (keeps : ∀ b s, f (absorbByte b s) = f s) (bs : List Byte) (s : State) :
    f (absorbAll bs s) = f s := by
  induction bs generalizing s with
  | nil => rfl
  | cons b bs ih => exact (ih _).trans (keeps b s)

/-- The state with the state words and the counter that INIT and the message `m` would have left. -/
def rebased (m : List Byte) (s : State) : State :=
  { s with H := compressBlocks m (m.length / 64) iv, bitcnt := BitVec.ofNat 64 (512 * (m.length / 64)) }

/-- `m` is absorbed in the block, and its blocks are folded into the state words from `H₀` and counted from `c₀`. -/
structure AbsorbedFrom (H₀ : StateWords) (c₀ : Dword) (m : List Byte) (s : State) : Prop where
  buffer : Absorbed m (rebased m s)
  words : s.H = compressBlocks m (m.length / 64) H₀
  bitcnt : s.bitcnt = c₀ + BitVec.ofNat 64 (512 * (m.length / 64))

section absorbedFrom
variable {H₀ : StateWords} {c₀ : Dword} {m : List Byte} {s : State}

/-- `Absorbed` asks phase, occupancy and block of a rebased state only. -/
theorem Absorbed.of_buffer {t : State} (abs : Absorbed m t) (hp : s.phase = t.phase) (ho : s.occ = t.occ) (hb : s.blk = t.blk) :
    Absorbed m (rebased m s) where
  phase := hp.trans abs.phase
  words := rfl
  occ := (congrArg BitVec.toNat ho).trans abs.occ
  bitcnt := rfl
  tail := hb ▸ abs.tail

theorem length_buffered (s : State) : (buffered s).length = s.occ.toNat := by
  rw [buffered, List.length_take, Vector.length_toList]
  omega

/-- What ACTIVE has buffered is a message shorter than a block. -/
theorem absorbedFrom_buffered (hp : s.phase = .active) : AbsorbedFrom s.H s.bitcnt (buffered s) s := by
  have length := length_buffered s
  have none : (buffered s).length / 64 = 0 := by omega
  have all : (buffered s).length % 64 = s.occ.toNat := by omega
  refine ⟨⟨hp, rfl, all.symm, rfl, fun a ha => ?_⟩, ?_, ?_⟩
  · rw [all] at ha
    rw [none, buffered, List.getElem?_take_of_lt (by omega)]
    simp [rebased]
  · rw [none, compressBlocks_zero]
  · rw [none]
    exact (BitVec.add_zero _).symm

theorem AbsorbedFrom.absorb (abs : AbsorbedFrom H₀ c₀ m s) (b : Byte) :
    AbsorbedFrom H₀ c₀ (m ++ [b]) (absorbByte b s) := by
  have occ : s.occ.toNat = m.length % 64 := abs.buffer.occ
  have length : (m ++ [b]).length = m.length + 1 := List.length_append
  have old : compressBlocks (m ++ [b]) (m.length / 64) H₀ = s.H := by
    rw [abs.words, compressBlocks_append _ _ _ _ (by omega)]
  have buffer : Absorbed (m ++ [b]) (rebased (m ++ [b]) (absorbByte b s)) :=
    (abs.buffer.append b).of_buffer (by simp [rebased]) (by simp [absorbByte_occ, rebased])
      (by simp [rebased])
  by_cases full : s.occ = 63
  · have last : m.length % 64 = 63 := by rw [← occ, full]; rfl
    have block : (absorbByte b s).blk = blockAt (m ++ [b]) (m.length / 64) := by
      rw [← abs.buffer.stored_eq_blockAt b last, absorbByte_blk, absorbByte_blk]
      rfl
    have quotient : (m.length + 1) / 64 = m.length / 64 + 1 := by omega
    refine ⟨buffer, ?_, ?_⟩
    · rw [length, quotient, compressBlocks_succ, old, ← block, absorbByte_H, if_pos full, absorbByte_blk]
    · rw [length, quotient, absorbByte_bitcnt, if_pos full, abs.bitcnt, Nat.mul_succ, BitVec.ofNat_add, ← BitVec.add_assoc]
      rfl
  · have quotient : (m.length + 1) / 64 = m.length / 64 := by bv_omega
    refine ⟨buffer, ?_, ?_⟩
    · rw [length, quotient, old, absorbByte_H, if_neg full]
    · rw [length, quotient, absorbByte_bitcnt, if_neg full, abs.bitcnt]

theorem AbsorbedFrom.absorbAll (abs : AbsorbedFrom H₀ c₀ m s) (bs : List Byte) :
    AbsorbedFrom H₀ c₀ (m ++ bs) (absorbAll bs s) := by
  induction bs generalizing m s with
  | nil => rwa [List.append_nil]
  | cons b bs ih =>
    rw [List.append_cons]
    exact ih (abs.absorb b)

end absorbedFrom

/-- Settles O23: the buffered bytes are absorbed, and each UPDATE of the slice appends its byte. -/
theorem sliceInClosedForm : Obligations.SliceInClosedForm := by
  intro bs s hp
  obtain ⟨buffer, words, bitcnt⟩ := (absorbedFrom_buffered hp).absorbAll bs
  have active : (absorbAll bs s).phase = .active := (absorbAll_phase bs s).trans hp
  have length : (buffered s ++ bs).length = s.occ.toNat + bs.length := by
    rw [List.length_append, length_buffered]
  have occ : (absorbAll bs s).occ.toNat = (s.occ.toNat + bs.length) % 64 := length ▸ buffer.occ
  have tail := buffer.tail
  rw [length] at words bitcnt tail
  refine ⟨absorbAll bs s, ?_, ?_, active, occ, bitcnt, words, fun a ha => tail a (occ ▸ ha), ?_, ?_, ?_, ?_⟩
  · rw [runWords_eq, afterWords_sliceWords hp]
  · simp [Good, hp]
  · exact absorbAll_keeps absorbByte_dig bs s
  · exact absorbAll_keeps absorbByte_cause bs s
  · exact absorbAll_keeps absorbByte_host bs s
  · exact absorbAll_keeps absorbByte_resets bs s

/-- Settles O24: the words of the two pieces are those of the whole, and ACTIVE is kept. -/
theorem chunkingInvariance : Obligations.ChunkingInvariance := by
  intro bs cs s hp
  have good (ds : List Byte) : Good (afterWords (sliceWords ds) s) := by
    rw [afterWords_sliceWords hp]
    simp [Good, hp]
  have whole : sliceWords (bs ++ cs) = sliceWords bs ++ sliceWords cs := List.map_append
  have split := afterWords_append (sliceWords bs) (sliceWords cs) s
  rw [← whole] at split
  refine ⟨_, _, runWords_eq _ s, runWords_eq _ _, ?_, good bs, ?_⟩
  · rw [runWords_eq, split]
  · exact split ▸ good (bs ++ cs)

end Sys2Proof.Machine
end

section
/-! PROOFS. FINAL on an absorbed message: the block it builds is the end of the padded message, so that it leaves the message's
digest (R131 to R138, R142, R143). -/

namespace Sys2Proof.Machine

section finalWords
variable {m : List Byte} {s : State}

/-- The total bit count of the absorbed message (R131). -/
theorem Absorbed.totalBits (abs : Absorbed m s) :
    s.bitcnt + 8 * s.occ.setWidth 64 = BitVec.ofNat 64 (8 * m.length) := by
  have tail : 8 * s.occ.setWidth 64 = BitVec.ofNat 64 (8 * (m.length % 64)) := by
    have occ := abs.occ
    bv_omega
  rw [abs.bitcnt, tail, ← BitVec.ofNat_add]
  congr 1
  omega

/-- Marker and zeros after the tail are those of the padded message, up to its length field (R132 to R134, R142). -/
theorem Absorbed.padFrom_get (abs : Absorbed m s) (hi a : Nat) (h : a < 64) (ha : a < hi)
    (beforeLength : 64 * (m.length / 64) + a + 8 < (padded m).length) :
    (padFrom s.blk s.occ.toNat hi)[a] = (padded m).getD (64 * (m.length / 64) + a) 0 := by
  have occ := abs.occ
  rw [padded_get _ _ (by omega)]
  by_cases inTail : a < s.occ.toNat
  · have inside : 64 * (m.length / 64) + a < m.length := by omega
    rw [if_pos inside, padFrom_get_below _ _ _ _ h inTail, List.getD_eq_getElem?_getD,
      ← abs.tail ⟨a, h⟩ (occ ▸ inTail), Option.getD_some]
  · have outside : ¬64 * (m.length / 64) + a < m.length := by omega
    rw [if_neg outside, padFrom, zeroFill_get]
    by_cases atMarker : a = s.occ.toNat
    · have marker : 64 * (m.length / 64) + a = m.length := by omega
      have unfilled : ¬(s.occ.toNat + 1 ≤ a ∧ a < hi) := by omega
      rw [if_pos marker, if_neg unfilled, storeBE_byte_get, if_pos atMarker]
    · have past : ¬64 * (m.length / 64) + a = m.length := by omega
      have filled : s.occ.toNat + 1 ≤ a ∧ a < hi := by omega
      have zero : 64 * (m.length / 64) + a < (padded m).length - 8 := by omega
      rw [if_neg past, if_pos filled, if_pos zero]

/-- A block whose first 56 bytes are the padded message's, with the length field behind them, is its last block (R136, R142). -/
theorem storeLength_eq_blockAt (b : Block) (q : Nat) (length : (padded m).length = 64 * (q + 1))
    (front : ∀ (a : Nat) (h : a < 64), a < 56 → b[a] = (padded m).getD (64 * q + a) 0) :
    storeBE b 56 8 (BitVec.ofNat 64 (8 * m.length)) = blockAt (padded m) q := by
  have bound := padded_length m
  ext1 a h
  rw [blockAt_get, storeBE_get]
  by_cases inFront : a < 56
  · rw [if_neg (by omega), front a h inFront]
  · have inField : 56 ≤ a ∧ a < 56 + 8 := by omega
    have pastMessage : ¬64 * q + a < m.length := by omega
    have pastMarker : ¬64 * q + a = m.length := by omega
    have pastZeros : ¬64 * q + a < (padded m).length - 8 := by omega
    have offset : 8 * (8 - 1 - (a - 56)) = 56 - 8 * (64 * q + a - ((padded m).length - 8)) := by omega
    rw [if_pos inField, padded_get _ _ (by omega), if_neg pastMessage, if_neg pastMarker, if_neg pastZeros, byteBE, offset]

/-- The message's whole blocks, seen in the padded message. -/
theorem Absorbed.words_padded (abs : Absorbed m s) : compressBlocks (padded m) (m.length / 64) iv = s.H := by
  rw [compressBlocks_padded, abs.words]

/-- FINAL's state words are those of the message (R133, R134, R143). -/
theorem Absorbed.finish_H (abs : Absorbed m s) : (finishOperation s).H = finalWords m := by
  have occ := abs.occ
  have bound := padded_length m
  rw [finishOperation_H, finalWords]
  rcases Nat.lt_or_ge s.occ.toNat 56 with one | two
  · obtain ⟨words, blk⟩ := lastBlock_oneBlock s one
    have length : (padded m).length = 64 * (m.length / 64 + 1) := by omega
    have blocks : (padded m).length / 64 = m.length / 64 + 1 := by omega
    rw [words, blk, abs.totalBits, blocks, compressBlocks_succ, abs.words_padded, storeLength_eq_blockAt _ _ length]
    exact fun a h front => abs.padFrom_get 56 a h front (by omega)
  · obtain ⟨words, blk⟩ := lastBlock_twoBlocks s two
    have length : (padded m).length = 64 * (m.length / 64 + 1 + 1) := by omega
    have blocks : (padded m).length / 64 = m.length / 64 + 1 + 1 := by omega
    have first : padFrom s.blk s.occ.toNat 64 = blockAt (padded m) (m.length / 64) := by
      ext1 a h
      rw [blockAt_get, abs.padFrom_get 64 a h h (by omega)]
    rw [words, blk, abs.totalBits, blocks, compressBlocks_succ, compressBlocks_succ, abs.words_padded, first,
      storeLength_eq_blockAt _ _ length]
    intro a h front
    have pastMessage : ¬64 * (m.length / 64 + 1) + a < m.length := by omega
    have pastMarker : ¬64 * (m.length / 64 + 1) + a = m.length := by omega
    have inZeros : 64 * (m.length / 64 + 1) + a < (padded m).length - 8 := by omega
    rw [zeroFill_get, if_pos ⟨Nat.zero_le a, front⟩, padded_get _ _ (by omega), if_neg pastMessage, if_neg pastMarker,
      if_pos inZeros]

/-- FINAL leaves the message's digest (R138, R143). -/
theorem Absorbed.finish_dig (abs : Absorbed m s) : (finishOperation s).dig = digestOf m := by
  rw [finishOperation_dig, abs.finish_H, serialise_eq, digestOf]
  congr 1
  funext a
  have offset : 8 * (4 - 1 - a.val % 4) = 24 - 8 * (a.val % 4) := by omega
  rw [byteBE, offset]

theorem Absorbed.absorbAll (abs : Absorbed m s) (bs : List Byte) : Absorbed (m ++ bs) (absorbAll bs s) := by
  induction bs generalizing m s with
  | nil => rwa [List.append_nil]
  | cons b bs ih =>
    rw [List.append_cons]
    exact ih (abs.append b)

end finalWords

end Sys2Proof.Machine
end

section
/-! PROOFS. The answers to RDIG.ALL and to a whole hash operation (R72, R142, R150). -/

namespace Sys2Proof.Machine

section answers
variable {s : State}

theorem responses_append (ws vs : List CmdWord) (s : State) :
    responses (ws ++ vs) s = responses ws s ++ responses vs (afterWords ws s) := by
  induction ws generalizing s with
  | nil => rfl
  | cons w ws ih =>
    rw [List.cons_append, responses_cons, responses_cons, ih]
    rfl

/-- The answer to an encoded command in a cell in which it runs. -/
theorem responses_encode_cons {i : Instr} (run : permits s.phase i = true) (ws : List CmdWord) :
    responses (encode i :: ws) s = (commandEffect i s).resp :: responses ws (commandEffect i s) := by
  rw [responses_cons, decode_encode, cellEffect_runs run]

/-- A slice in ACTIVE answers nothing (R90). -/
theorem responses_sliceWords (hp : s.phase = .active) (bs : List Byte) :
    responses (sliceWords bs) s = List.replicate bs.length none := by
  induction bs generalizing s with
  | nil => rfl
  | cons b bs ih =>
    have active : (absorbByte b s).phase = .active := (absorbByte_phase b s).trans hp
    have first : responses (sliceWords (b :: bs)) s = none :: responses (sliceWords bs) (absorbByte b s) := by
      refine (responses_encode_cons (permits_update.2 hp) (sliceWords bs)).trans ?_
      rw [commandEffect, absorbByte_resp]
    rw [first, ih active]
    rfl

/-- The words of RDIGs at a list of indices. -/
def rdigWords (xs : List (Fin 32)) : List CmdWord :=
  xs.map fun x => encode (.rdig (.ofFin x))

theorem rdigWords_finRange : rdigWords (List.finRange 32) = rdigAllWords := rfl

/-- RDIGs in DONE answer their bytes of the digest (R150). -/
theorem responses_rdigWords (hp : s.phase = .done) (xs : List (Fin 32)) :
    responses (rdigWords xs) s = xs.map fun x => some s.dig[x.val] := by
  induction xs generalizing s with
  | nil => rfl
  | cons x xs ih =>
    refine (responses_encode_cons (permits_rdig.2 hp) (rdigWords xs)).trans ?_
    exact congrArg (List.cons _) (ih (s := respond _ s) hp)

/-- RDIGs in DONE leave the engine as it was but for the last answer (R150). -/
theorem afterWords_rdigWords_concat (hp : s.phase = .done) (xs : List (Fin 32)) (x : Fin 32) :
    afterWords (rdigWords (xs ++ [x])) s = respond (some s.dig[x.val]) s := by
  induction xs generalizing s with
  | nil => exact afterWords_encode_cons (permits_rdig.2 hp) []
  | cons y xs ih =>
    exact (afterWords_encode_cons (permits_rdig.2 hp) (rdigWords (xs ++ [x]))).trans (ih (s := respond _ s) hp)

theorem afterWords_rdigAllWords (hp : s.phase = .done) : afterWords rdigAllWords s = respond (some s.dig[31]) s := by
  rw [← rdigWords_finRange, List.finRange_succ_last]
  exact afterWords_rdigWords_concat hp _ (Fin.last 31)

theorem responses_rdigAllWords (hp : s.phase = .done) : responses rdigAllWords s = s.dig.toList.map some := by
  rw [← rdigWords_finRange, responses_rdigWords hp]
  apply List.ext_getElem
  · simp
  · intro a _ _
    simp

/-- Settles O45: each RDIG answers its byte and changes nothing but the response. -/
theorem rdigAllAnswersDigest : Obligations.RdigAllAnswersDigest := by
  intro s hp
  have last := afterWords_rdigAllWords hp
  refine ⟨?_, responses_rdigAllWords hp, ?_⟩
  · rw [endsWell_eq_true, last]
    simp [Good, hp]
  · rw [runWords_eq, last]
    rfl

/-- A hash operation is INIT, the slice and FINAL, and then RDIG.ALL (R72). -/
theorem hashWords_eq (m : List Byte) :
    hashWords m = (encode .init :: sliceWords m ++ [encode .final]) ++ rdigAllWords := by
  simp [hashWords]

theorem responses_operation (hp : s.phase = .uninit ∨ s.phase = .done) (m : List Byte) :
    responses (encode .init :: sliceWords m ++ [encode .final]) s = List.replicate (m.length + 2) none := by
  have started : (startOperation s).phase = .active := startOperation_phase s
  have active : (absorbAll m (startOperation s)).phase = .active := absorbAll_phase m _
  have final : responses [encode .final] (absorbAll m (startOperation s)) = [none] :=
    responses_encode_cons (permits_final.2 active) []
  rw [List.cons_append, responses_encode_cons (permits_init.2 hp), responses_append, commandEffect,
    responses_sliceWords started, afterWords_sliceWords started, final, ← List.replicate_succ', startOperation_resp]
  rfl

/-- Settles O40: INIT, the slice and FINAL answer nothing and leave the digest of the absorbed message, which RDIG.ALL reads. -/
theorem hashOperationAnswersDigest : Obligations.HashOperationAnswersDigest := by
  intro m s hp
  have digest : (finishOperation (absorbAll m (startOperation s))).dig = digestOf m :=
    ((absorbed_startOperation s).absorbAll m).finish_dig
  have done := finishOperation_phase (absorbAll m (startOperation s))
  rw [hashWords_eq]
  constructor
  · rw [endsWell_eq_true, afterWords_append, afterWords_operation hp, afterWords_rdigAllWords done]
    simp [Good]
  · rw [responses_append, responses_operation hp, afterWords_operation hp, responses_rdigAllWords done, digest]

end answers

end Sys2Proof.Machine
end

section
/-! PROOFS. INIT phase by phase: it starts an operation, faults in ACTIVE, is ignored in FAULT, and takes the old digest out of
reach (R80, R82, R83). -/

namespace Sys2Proof.Machine

section init
variable {s : State}

/-- INIT's reserved words (R67). -/
theorem decode_initOperand {w : CmdWord} (low : 0x0101 ≤ w.toNat) (high : w.toNat ≤ 0x01FF) (i : Instr) : decode w ≠ .ok i :=
  reserved_iff.2 (.inr (.inr (.inl ⟨low, high⟩))) i

/-- A poll after INIT leaves the started operation as it is, but for the answer (R80, R155). -/
theorem afterWords_init_rstat (hp : s.phase = .uninit ∨ s.phase = .done) :
    afterWords [encode .init, encode .rstat] s = respond (some (status (startOperation s))) (startOperation s) := by
  rw [afterWords_encode_cons (permits_init.2 hp), commandEffect, afterWords_encode_cons rfl]
  rfl

/-- INIT answers nothing, and the poll the status of the started operation (R80, R152). -/
theorem responses_init_rstat (hp : s.phase = .uninit ∨ s.phase = .done) :
    responses [encode .init, encode .rstat] s = [none, some (status (startOperation s))] := by
  rw [responses_encode_cons (permits_init.2 hp), commandEffect, responses_encode_cons rfl]
  rfl

/-- INIT keeps the cause, so that without one the started operation's STATUS is that of ACTIVE alone (R153). -/
theorem status_startOperation (hc : s.cause = .none) : status (startOperation s) = 0x01 := by
  rw [status, startOperation_cause, startOperation_phase, hc]
  rfl

end init

/-- Settles O16: each phase by its own rule; the worked example needs only reset's phase and cause. -/
theorem initStartsOperation : Obligations.InitStartsOperation := by
  have fresh : State.reset.phase = .uninit ∨ State.reset.phase = .done := .inl rfl
  refine ⟨fun s hp => execInit_fault hp, fun s hp => execInit_active hp, fun s hp => ?_, fun w s low high hp => ?_, rfl, ?_, ?_⟩
  · exact ⟨startOperation s, execInit_starts hp, by simp [doneFlag, faultFlag]⟩
  · exact acceptWord_reserved (decode_initOperand low high) hp
  · rw [← status_startOperation (s := State.reset) rfl]
    exact responses_init_rstat fresh
  · have last := afterWords_init_rstat fresh
    refine (endsWell_eq_true [encode .init, encode .rstat] State.reset).2 ?_
    simp [last, Good]

/-- Settles O17: fault entry writes phase, cause and response only. -/
theorem initInActiveFaults : Obligations.InitInActiveFaults :=
  ⟨rfl, fun s hp => ⟨raise .reinitActive s, execInit_active hp, by simp⟩⟩

/-- Settles O18: INIT leads to ACTIVE, where RDIG of any index faults. -/
theorem initFromDoneHidesDigest : Obligations.InitFromDoneHidesDigest := by
  refine ⟨fun s hp => ⟨startOperation s, execInit_starts (.inl hp), startOperation_phase s⟩, fun s x hp => ?_⟩
  have active := startOperation_phase s
  exact ⟨startOperation s, raise .digestNotReady (startOperation s), execInit_starts (.inr hp), active, startOperation_dig s,
    execRdig_early x (.inr active), by simp⟩

end Sys2Proof.Machine
end

section
/-! PROOFS. The constant tables as root fractions (R81, R104): finite checks with exact integers, one table entry and one prime
at a time. -/

namespace Sys2Proof.Machine

/-- The first 64 primes. -/
def firstPrimes : List Nat :=
  [2, 3, 5, 7, 11, 13, 17, 19, 23, 29, 31, 37, 41, 43, 47, 53, 59, 61, 67, 71, 73, 79, 83, 89, 97, 101, 103, 107, 109, 113,
    127, 131, 137, 139, 149, 151, 157, 163, 167, 173, 179, 181, 191, 193, 197, 199, 211, 223, 227, 229, 233, 239, 241, 251,
    257, 263, 269, 271, 277, 281, 283, 293, 307, 311]

/-- By trial division they are the primes below 312. -/
theorem filter_prime_eq_firstPrimes :
    ((List.range 312).filter fun p => 2 ≤ p ∧ ∀ d ∈ List.range p, 2 ≤ d → p % d ≠ 0) = firstPrimes := by
  decide +kernel

/-- The `n`-th root of `p` has the integer part `c`, and `f` is the first 32 bits of its fractional part. -/
abbrev IsRootFraction (n p c : Nat) (f : Word) : Prop :=
  (c * 2 ^ 32 + f.toNat) ^ n ≤ p * 2 ^ (32 * n) ∧ p * 2 ^ (32 * n) < (c * 2 ^ 32 + f.toNat + 1) ^ n

/-- R81; 19, the eighth prime, is below 5 squared. -/
theorem iv_rootFraction : ∀ q ∈ firstPrimes.zip iv.toList, ∃ c < 5, IsRootFraction 2 q.1 c q.2 := by
  decide +kernel

/-- R104; 311, the last of the primes, is below 7 cubed. -/
theorem roundConstants_rootFraction :
    ∀ q ∈ firstPrimes.zip roundConstants.toList, ∃ c < 7, IsRootFraction 3 q.1 c q.2 := by
  decide +kernel

/-- Settles O28: the integer parts of the roots are bounded, so that each entry is checked against finitely many. -/
theorem tablesAreRootFractions : Obligations.TablesAreRootFractions := by
  unfold Obligations.TablesAreRootFractions
  rw [filter_prime_eq_firstPrimes]
  refine ⟨rfl, rfl, fun q hq => ?_, fun q hq => ?_⟩
  · obtain ⟨c, -, root⟩ := iv_rootFraction q hq
    exact ⟨c, root⟩
  · obtain ⟨c, -, root⟩ := roundConstants_rootFraction q hq
    exact ⟨c, root⟩

end Sys2Proof.Machine
end

section
/-! PROOFS. UPDATE phase by phase: the store at `occ`, the block boundary, and the faults outside ACTIVE (R90 to R92). -/

namespace Sys2Proof.Machine

/-- A one-byte store sets its address alone. -/
theorem storeBE_byte_eq_set {m : Nat} (mem : Vector Byte m) (addr : Nat) (b : Byte) (h : addr < m) :
    storeBE mem addr 1 b = mem.set addr b := by
  ext1 a ha
  rw [storeBE_byte_get, Vector.getElem_set]
  simp only [eq_comm]

section update
variable {b : Byte} {s : State}

/-- The boundary runs `Compress` on the block as stored (R91). -/
theorem absorbByte_at_boundary (full : s.occ.toNat = 63) :
    (absorbByte b s).H = compress s.H (absorbByte b s).blk ∧ (absorbByte b s).bitcnt = s.bitcnt + 512 ∧
      (absorbByte b s).occ.toNat = 0 := by
  have last : s.occ = 63 := BitVec.eq_of_toNat_eq full
  rw [absorbByte_boundary b s last]
  exact ⟨rfl, rfl, rfl⟩

/-- Below the boundary a byte is counted in `occ` only (R90). -/
theorem absorbByte_below_boundary (room : s.occ.toNat ≠ 63) :
    (absorbByte b s).H = s.H ∧ (absorbByte b s).bitcnt = s.bitcnt ∧
      (absorbByte b s).occ.toNat = s.occ.toNat + 1 := by
  have below : s.occ ≠ 63 := fun last => room (congrArg BitVec.toNat last)
  have counted : (s.occ + 1).toNat = s.occ.toNat + 1 := by bv_omega
  rw [absorbByte_below b s below]
  exact ⟨rfl, rfl, counted⟩

/-- The first byte of an empty block (R90, worked example). -/
theorem absorbByte_first (empty : s.occ = 0) :
    absorbByte b s = { s with blk := s.blk.set 0 b, occ := 1, resp := none } := by
  have below : s.occ ≠ 63 := by simp [empty]
  rw [absorbByte_below b s below, empty, storeBE_byte_eq_set]
  rfl

end update

/-- Settles O20: each phase by its own rule; in ACTIVE the boundary decides what moves beside the stored byte. -/
theorem updateAbsorbsByte : Obligations.UpdateAbsorbsByte := by
  refine ⟨fun b => decode_encode (.update b), fun s hp empty => ?_, fun b s => ⟨execUpdate_fault b, execUpdate_uninit b,
    execUpdate_done b, fun hp => ⟨absorbByte b s, execUpdate_active b hp, fun a => ?_, absorbByte_at_boundary,
      absorbByte_below_boundary, ?_⟩⟩⟩
  · have runs := acceptWord_runs (decode_encode (.update 0x61)) (permits_update.2 hp)
    exact runs.trans (congrArg _ (absorbByte_first empty))
  · simp only [absorbByte_blk, storeBE_byte_get]
  · simp [hp]

/-- Settles O21: fault entry writes phase, cause and response only. -/
theorem updateOutOfOrderFaults : Obligations.UpdateOutOfOrderFaults := by
  refine ⟨rfl, rfl, fun b s outside => ?_⟩
  rcases outside with hp | hp
  · exact ⟨raise .notInitialized s, execUpdate_uninit b hp, by simp [hp]⟩
  · exact ⟨raise .alreadyFinalized s, execUpdate_done b hp, by simp [hp]⟩

end Sys2Proof.Machine
end

section
/-! PROOFS. TRANSFORM's parts: the bits of its word functions, and its 64 rounds as a trace of the working variables (R103, R105 to
R110). -/

namespace Sys2Proof.Machine

/-- `ROTR` is the library's rotation for the counts the spec uses. -/
theorem rotr_eq_rotateRight (x : Word) {n : Nat} (small : n < 32) : rotr x n = x.rotateRight n := by
  rw [rotr, BitVec.rotateRight_def, Nat.mod_eq_of_lt small]

/-- A rotation takes its bits from `n` places higher, modulo the width. -/
theorem rotr_getLsbD (x : Word) {n i : Nat} (small : n < 32) (hi : i < 32) :
    (rotr x n).getLsbD i = x.getLsbD ((i + n) % 32) := by
  rw [rotr_eq_rotateRight x small, BitVec.getLsbD_rotateRight, Nat.mod_eq_of_lt small]
  rcases Nat.lt_or_ge i (32 - n) with straight | wrapped
  · have place : n + i = (i + n) % 32 := by omega
    rw [decide_eq_true straight, cond_true, place]
  · have place : i - (32 - n) = (i + n) % 32 := by omega
    rw [decide_eq_false wrapped.not_gt, cond_false, decide_eq_true hi, Bool.true_and, place]

/-- A shift takes its bits from `n` places higher; beyond bit 31 these are 0. -/
theorem shr_getLsbD (x : Word) (n i : Nat) : (shr x n).getLsbD i = x.getLsbD (i + n) := by
  rw [shr, BitVec.getLsbD_ushiftRight, Nat.add_comm]

/-- Settles O26: the exclusive or acts bit by bit, on rotated and shifted bits. -/
theorem sigmaFunctionsBitByBit : Obligations.SigmaFunctionsBitByBit := by
  intro x i hi
  simp only [ssig0, ssig1, bsig0, bsig1, BitVec.getLsbD_xor, shr_getLsbD, rotr_getLsbD, hi, Nat.reduceLT, and_self]

/-- Settles O27, by the values of the bits; beyond bit 31 all of them are 0. -/
theorem chooseAndMajorityBitByBit : Obligations.ChooseAndMajorityBitByBit := by
  intro x y z i
  constructor
  · rw [ch, BitVec.getLsbD_xor, BitVec.getLsbD_and, BitVec.getLsbD_and, BitVec.getLsbD_not]
    by_cases hi : i < 32
    · cases x.getLsbD i <;> simp [hi]
    · simp [BitVec.getLsbD_of_ge _ i (Nat.le_of_not_lt hi)]
  · simp only [maj, BitVec.getLsbD_xor, BitVec.getLsbD_and]
    cases x.getLsbD i <;> cases y.getLsbD i <;> cases z.getLsbD i <;> rfl

section trace
variable (H : StateWords) (b : Block)

/-- The pairs `(K[t], W[t])` of the rounds over a block. -/
def roundInputs : List (Word × Word) :=
  roundConstants.toList.zip (schedule b).toList

/-- The working variables before round `t` (R107, R108). -/
def workingAt (t : Nat) : Working :=
  runRounds (workingOf H) ((roundInputs b).take t)

theorem roundInputs_length : (roundInputs b).length = 64 := by
  simp [roundInputs]

theorem workingAt_zero : workingAt H b 0 = workingOf H := rfl

/-- One step of the trace is one round (R108). -/
theorem workingAt_succ (t : Nat) (h : t < 64) :
    workingAt H b (t + 1) = compressRound (workingAt H b t) roundConstants[t] (schedule b)[t] := by
  have inputs : (roundInputs b).take (t + 1) = (roundInputs b).take t ++ [(roundConstants[t], (schedule b)[t])] := by
    rw [← List.take_append_getElem (by rwa [roundInputs_length])]
    simp [roundInputs]
  rw [workingAt, inputs, runRounds_snoc, ← workingAt]

/-- `Compress` feeds the end of the trace forward (R110). -/
theorem compress_eq_feedForward_workingAt : compress H b = feedForward H (workingAt H b 64) := by
  rw [compress_eq, workingAt, List.take_of_length_le (roundInputs_length b).le]
  rfl

end trace

/-- Settles O29, by the trace `workingAt`. -/
theorem compressIsSixtyFourRounds : Obligations.CompressIsSixtyFourRounds := by
  intro H b
  exact ⟨workingAt H b, workingAt_zero H b, workingAt_succ H b, compress_eq_feedForward_workingAt H b⟩

end Sys2Proof.Machine
end

section
/-! PROOFS. FINAL's post-state byte by byte: the length field, the block or blocks left by the padding, the digest, the digest of an
absorbed message; and FINAL out of order (R131 to R143). -/

namespace Sys2Proof.Machine

section final
variable {s : State}

/-- FINAL counts the buffered bytes, in bits (R131). -/
theorem finishOperation_totalBits (s : State) :
    (finishOperation s).bitcnt = s.bitcnt + BitVec.ofNat 64 (8 * s.occ.toNat) := by
  have tail : 8 * s.occ.setWidth 64 = BitVec.ofNat 64 (8 * s.occ.toNat) := by bv_omega
  rw [finishOperation_bitcnt, tail]

/-- Each byte of a padded tail (R132 to R134). -/
theorem padFrom_get (b : Block) (n hi a : Nat) (h : a < 64) (ha : a < hi) :
    (padFrom b n hi)[a] = if a < n then b[a] else if a = n then 0x80 else 0x00 := by
  by_cases below : a < n
  · rw [if_pos below, padFrom_get_below b n hi a h below]
  · rw [if_neg below, padFrom, zeroFill_get, storeBE_byte_get]
    by_cases atMarker : a = n
    · have unfilled : ¬(n + 1 ≤ a ∧ a < hi) := by omega
      rw [if_neg unfilled, if_pos atMarker, if_pos atMarker]
    · have filled : n + 1 ≤ a ∧ a < hi := by omega
      rw [if_pos filled, if_neg atMarker]

/-- A block with the length field stored behind its first 56 bytes (R136). -/
theorem storeLength_get (b : Block) (v : Dword) (a : Nat) (h : a < 64) :
    (storeBE b 56 8 v)[a] = if a < 56 then b[a] else v.extractLsb' (56 - 8 * (a - 56)) 8 := by
  split
  next front => exact storeBE_get_outside b 56 8 v a h (.inl front)
  next field =>
    have inField : 56 ≤ a ∧ a < 56 + 8 := by omega
    have offset : 8 * (8 - 1 - (a - 56)) = 56 - 8 * (a - 56) := by omega
    rw [storeBE_get, if_pos inField, byteBE, offset]

/-- In the one-block case FINAL leaves tail, marker, zeros and length in the block (R133, R136). -/
theorem finishOperation_blk_oneBlock (one : s.occ.toNat < 56) (a : Nat) (h : a < 64) :
    (finishOperation s).blk[a] =
      if a < s.occ.toNat then s.blk[a]
      else if a = s.occ.toNat then 0x80
      else if a < 56 then 0x00
      else (finishOperation s).bitcnt.extractLsb' (56 - 8 * (a - 56)) 8 := by
  obtain ⟨-, blk⟩ := lastBlock_oneBlock s one
  simp only [finishOperation_blk, blk, storeLength_get, finishOperation_bitcnt]
  by_cases front : a < 56
  · simp only [if_pos front, padFrom_get _ _ _ _ h front]
  · have pastTail : ¬a < s.occ.toNat := by omega
    have pastMarker : ¬a = s.occ.toNat := by omega
    simp only [if_neg front, if_neg pastTail, if_neg pastMarker]

/-- In the two-block case FINAL leaves zeros and length in the block (R134, R136). -/
theorem finishOperation_blk_twoBlocks (two : 56 ≤ s.occ.toNat) (a : Nat) (h : a < 64) :
    (finishOperation s).blk[a] =
      if a < 56 then 0x00 else (finishOperation s).bitcnt.extractLsb' (56 - 8 * (a - 56)) 8 := by
  obtain ⟨-, blk⟩ := lastBlock_twoBlocks s two
  simp only [finishOperation_blk, blk, storeLength_get, finishOperation_bitcnt]
  split
  next front => rw [zeroFill_get, if_pos ⟨Nat.zero_le a, front⟩]
  next => rfl

/-- One TRANSFORM in the one-block case, on the block FINAL leaves (R133). -/
theorem finishOperation_H_oneBlock (one : s.occ.toNat < 56) :
    (finishOperation s).H = compress s.H (finishOperation s).blk := by
  obtain ⟨words, -⟩ := lastBlock_oneBlock s one
  rw [finishOperation_H, finishOperation_blk, words]

/-- Two TRANSFORMs in the two-block case, the first on the padded tail (R134). -/
theorem finishOperation_H_twoBlocks (two : 56 ≤ s.occ.toNat) :
    (finishOperation s).H = compress (compress s.H (padFrom s.blk s.occ.toNat 64)) (finishOperation s).blk := by
  obtain ⟨words, -⟩ := lastBlock_twoBlocks s two
  rw [finishOperation_H, finishOperation_blk, words]

/-- Each byte of the digest FINAL leaves (R138). -/
theorem finishOperation_dig_get (s : State) (k : Fin 8) (j : Fin 4) :
    (finishOperation s).dig[4 * k.val + j.val] = byteBE (finishOperation s).H[k.val] 4 j.val := by
  simp only [finishOperation_dig]
  exact serialise_get _ _ k j

end final

/-- Settles O32: the padding byte by byte, then one TRANSFORM. -/
theorem finalOneBlock : Obligations.FinalOneBlock := by
  intro s hp one
  exact ⟨finishOperation s, execFinal_active hp, finishOperation_totalBits s,
    fun a => finishOperation_blk_oneBlock one a a.isLt, finishOperation_H_oneBlock one, by simp⟩

/-- Settles O33: the first block is the tail padded to its end. -/
theorem finalTwoBlocks : Obligations.FinalTwoBlocks := by
  intro s hp two
  exact ⟨finishOperation s, padFrom s.blk s.occ.toNat 64, execFinal_active hp, finishOperation_totalBits s,
    fun a => padFrom_get _ _ _ _ a.isLt a.isLt, fun a => finishOperation_blk_twoBlocks two a a.isLt,
    finishOperation_H_twoBlocks two, by simp⟩

/-- Settles O34, one byte of each word at a time. -/
theorem finalSerialisesDigest : Obligations.FinalSerialisesDigest := by
  intro s hp
  have byte := finishOperation_dig_get s
  exact ⟨finishOperation s, execFinal_active hp, Vector.length_toList, fun k => ⟨byte k 0, byte k 1, byte k 2, byte k 3⟩⟩

/-- Settles O39: FINAL pads the absorbed message as R142 does. -/
theorem finalComputesDigest : Obligations.FinalComputesDigest := by
  intro m s abs
  have bits := (finishOperation_bitcnt s).trans abs.totalBits
  exact ⟨finishOperation s, execFinal_active abs.phase, finishOperation_phase s, abs.finish_H, abs.finish_dig, bits⟩

/-- Settles O31, by the length field's bytes in turn. -/
theorem finalWritesLengthField : Obligations.FinalWritesLengthField := by
  intro s hp
  have byte := finishOperation_lengthField s
  exact ⟨finishOperation s, execFinal_active hp, finishOperation_totalBits s,
    byte 0, byte 1, byte 2, byte 3, byte 4, byte 5, byte 6, byte 7⟩

/-- Settles O35: fault entry writes phase, cause and response only, and in FAULT RDIG is ignored. -/
theorem finalOutOfOrderFaults : Obligations.FinalOutOfOrderFaults := by
  refine ⟨rfl, rfl, fun s hp => execFinal_uninit hp, fun s hp => execFinal_done hp, fun s t x hp final => ?_⟩
  rw [exec, execFinal_done hp] at final
  cases final
  have fault := raise_phase .alreadyFinalized s
  exact ⟨raise_dig _ s, ignore (raise .alreadyFinalized s), execRdig_fault x fault, ignore_resp _, fault⟩

end Sys2Proof.Machine
end

section
/-! PROOFS. The read-out: RDIG phase by phase, RSTAT in every phase with the fields of STATUS, and the words that do not answer
(R150 to R155). -/

namespace Sys2Proof.Machine

/-- The phase a run of words leads to, by R19's table alone. -/
theorem afterWords_phase (ws : List CmdWord) (s : State) :
    (afterWords ws s).phase = (ws.map decode).foldl phaseTable s.phase := by
  induction ws generalizing s with
  | nil => rfl
  | cons w ws ih =>
    rw [List.map_cons, List.foldl_cons, ← cellEffect_phase]
    exact ih _

section rdig
variable {s : State}

/-- RDIG's reserved words (R67). -/
theorem decode_rdigIndex {w : CmdWord} (low : 0x0420 ≤ w.toNat) (high : w.toNat ≤ 0x04FF) (i : Instr) : decode w ≠ .ok i :=
  reserved_iff.2 (.inr (.inr (.inr (.inr (.inl ⟨low, high⟩))))) i

/-- After a hash operation any RDIGs answer their bytes of the message's digest (R143, R150). -/
theorem responses_operation_rdigWords (hp : s.phase = .uninit ∨ s.phase = .done) (m : List Byte) (xs : List (Fin 32)) :
    responses ((encode .init :: sliceWords m ++ [encode .final]) ++ rdigWords xs) s =
      List.replicate (m.length + 2) none ++ xs.map fun x => some (digestOf m)[x.val] := by
  have digest : (finishOperation (absorbAll m (startOperation s))).dig = digestOf m :=
    ((absorbed_startOperation s).absorbAll m).finish_dig
  rw [responses_append, responses_operation hp, afterWords_operation hp, responses_rdigWords (finishOperation_phase _), digest]

/-- The first and the last byte of the empty message's digest (R150, worked example). -/
theorem digestOf_nil_ends : (digestOf [])[0] = 0xe3 ∧ (digestOf [])[31] = 0x55 := by
  decide +kernel

end rdig

/-- Settles O43: each phase by its own rule; the worked example is the empty message's operation, read at both ends. -/
theorem rdigAnswersDigestByte : Obligations.RdigAnswersDigestByte := by
  have fresh : State.reset.phase = .uninit ∨ State.reset.phase = .done := .inl rfl
  refine ⟨fun x s hp => execRdig_fault x hp, fun x s hp => execRdig_early x hp, fun x s hp => execRdig_done x hp,
    fun s hp inv => ⟨?_, ?_⟩, fun w s low high hp => acceptWord_reserved (decode_rdigIndex low high) hp,
    fun x => decode_encode (.rdig x), ?_, ?_⟩
  · exact ⟨_, execRdig_done 0 hp, congrArg some (inv hp 0 0)⟩
  · exact ⟨_, execRdig_done 31 hp, congrArg some (inv hp 7 3)⟩
  · obtain ⟨first, last⟩ := digestOf_nil_ends
    rw [← first, ← last]
    exact responses_operation_rdigWords fresh [] [0, 31]
  · rw [endsWell_eq_true, Good, afterWords_phase]
    decide

/-- Settles O44: fault entry writes phase, cause and response only. -/
theorem rdigBeforeDoneFaults : Obligations.RdigBeforeDoneFaults :=
  ⟨rfl, fun x s hp => ⟨raise .digestNotReady s, execRdig_early x hp, by simp⟩⟩

section status
variable {s : State}

/-- STATUS[4:2] is the cause's code (R153). -/
theorem status_causeBits (s : State) : (status s).extractLsb' 2 3 = causeCode s.cause := by
  rw [status]
  cases s.phase <;> cases s.cause <;> decide

/-- STATUS[7:5] is 0 (R153). -/
theorem status_topBits (s : State) : (status s).extractLsb' 5 3 = 0 := by
  rw [status]
  cases s.phase <;> cases s.cause <;> decide

/-- A reader that goes by the fields gets phase and cause back (R153, log entry 13). -/
theorem readStatus_status (s : State) : readStatus (status s) = some (s.phase, s.cause) := by
  simp only [readStatus, status_phaseBits, status_causeBits, status_topBits]
  cases s.phase <;> cases s.cause <;> rfl

/-- The STATUS values that occur: three phases without a cause, and FAULT with one of the five (R153, R167). -/
theorem status_mem_of_faultInv (inv : FaultInv s) :
    status s ∈ [0x00, 0x01, 0x02, 0x07, 0x0B, 0x0F, 0x13, (0x17 : Byte)] := by
  rw [status]
  by_cases hp : s.phase = .fault
  · have hc := inv.2 hp
    rw [hp]
    cases h : s.cause with
    | none => exact absurd h hc
    | _ => decide
  · have hc : s.cause = .none := not_not.1 (mt inv.1 hp)
    rw [hc]
    cases h : s.phase with
    | fault => exact absurd h hp
    | _ => decide

/-- Only a command that reads out answers: RSTAT with STATUS, RDIG with its byte of the digest (R63, R153). -/
theorem commandEffect_resp (i : Instr) (s : State) :
    (i = .rstat ∧ (commandEffect i s).resp = some (status s)) ∨
    (∃ x, i = .rdig x ∧ (commandEffect i s).resp = some s.dig[x.toNat]) ∨ (commandEffect i s).resp = none := by
  cases i with
  | init => exact .inr (.inr (startOperation_resp s))
  | update b => exact .inr (.inr (absorbByte_resp b s))
  | final => exact .inr (.inr (finishOperation_resp s))
  | rdig x => exact .inr (.inl ⟨x, rfl, rfl⟩)
  | rstat => exact .inl ⟨rfl, rfl⟩

end status

/-- Settles O47: STATUS field by field; a faulting or an ignored command answers nothing. -/
theorem statusLayout : Obligations.StatusLayout := by
  refine ⟨fun s => ⟨status_phaseBits s, status_causeBits s, status_topBits s⟩, fun s => rfl, fun s => rfl,
    fun s inv => status_mem_of_faultInv inv, readStatus_status, fun i s t next => ?_⟩
  obtain ⟨c, -, rfl⟩ | ⟨-, rfl⟩ | ⟨-, rfl⟩ := exec_cells next
  · exact .inr (.inr (raise_resp c s))
  · exact .inr (.inr (ignore_resp s))
  · exact commandEffect_resp i s

section rstat
variable {s : State} {w : CmdWord}

/-- RSTAT's reserved words (R67). -/
theorem decode_rstatOperand (low : 0x0501 ≤ w.toNat) (high : w.toNat ≤ 0x05FF) (i : Instr) : decode w ≠ .ok i :=
  reserved_iff.2 (.inr (.inr (.inr (.inr (.inr ⟨low, high⟩))))) i

/-- In FAULT a word that is not RSTAT is ignored (R168). -/
theorem acceptWord_ignored (hp : s.phase = .fault) (hd : decode w ≠ .ok .rstat) : acceptWord w s = .next (ignore s) := by
  rw [acceptWord_eq, cellEffect_ignored hp hd]

/-- The state after a poll (R152). -/
def polled (s : State) : State :=
  respond (some (status s)) s

@[simp] theorem polled_phase (s : State) : (polled s).phase = s.phase := rfl
@[simp] theorem polled_cause (s : State) : (polled s).cause = s.cause := rfl

theorem exec_rstat (s : State) : exec .rstat s = .next (polled s) := rfl

/-- A poll answers the same when repeated (R155). -/
theorem polled_polled (s : State) : polled (polled s) = polled s := rfl

theorem responses_rstat_cons (ws : List CmdWord) (s : State) :
    responses (encode .rstat :: ws) s = some (status s) :: responses ws (polled s) :=
  responses_encode_cons rfl ws

theorem afterWords_rstat_cons (ws : List CmdWord) (s : State) :
    afterWords (encode .rstat :: ws) s = afterWords ws (polled s) :=
  afterWords_encode_cons rfl ws

end rstat

section runs
variable {s : State}

/-- After reset a poll before and after INIT, FINAL and a faulting UPDATE answers the STATUS of each (R152, worked example). -/
theorem responses_polls (hp : s.phase = .uninit) (hc : s.cause = .none) :
    responses [encode .rstat, encode .init, encode .rstat, encode .final, encode .rstat, encode (.update 0), encode .rstat] s =
      [some 0x00, none, some 0x01, none, some 0x02, none, some 0x0F] := by
  have start : permits (polled s).phase .init = true := permits_init.2 (.inl hp)
  have finish : permits (polled (startOperation (polled s))).phase .final = true := permits_final.2 rfl
  have late : cellEffect (decode (encode (.update 0))) (polled (finishOperation (polled (startOperation (polled s))))) =
      raise .alreadyFinalized (polled (finishOperation (polled (startOperation (polled s))))) := by
    rw [decode_encode]
    exact cellEffect_faults rfl
  rw [responses_rstat_cons, responses_encode_cons start, commandEffect, responses_rstat_cons,
    responses_encode_cons finish, commandEffect, responses_rstat_cons, responses_cons, late, responses_rstat_cons]
  simp [status, hp, hc, phaseCode, causeCode, responses]

end runs

/-- Settles O46: RSTAT answers in every phase; the worked example needs only reset's phase and cause. -/
theorem rstatAnswersStatus : Obligations.RstatAnswersStatus := by
  refine ⟨exec_rstat, decode_encode .rstat, fun w s low high => ⟨?_, ?_⟩, responses_polls rfl rfl, ?_, ?_⟩
  · exact acceptWord_reserved (decode_rstatOperand low high)
  · exact fun hp => acceptWord_ignored hp (decode_rstatOperand low high .rstat)
  · rw [endsWell_eq_true, Good, afterWords_phase]
    decide
  · rw [endsWell_eq_false, Good, afterWords_phase]
    decide

/-- Settles O49: in FAULT any word but RSTAT's is ignored; a poll writes the response alone, and the same one again. -/
theorem pollIsHarmless : Obligations.PollIsHarmless := by
  refine ⟨fun w s t hp next answers => ?_, fun s => ⟨polled s, exec_rstat s, polled_polled s ▸ exec_rstat (polled s), ?_⟩⟩
  · by_contra other
    have ignored : acceptWord w s = .next (ignore s) :=
      acceptWord_ignored hp fun hd => other (encode_of_decode hd).symm
    rw [ignored] at next
    cases next
    cases answers
  · simp [polled]

end Sys2Proof.Machine
end

section
/-! PROOFS. Faults: outside FAULT a word enters FAULT exactly in the cells of R19's table that name a fault, with the cause named
there (R160 to R168); a step that issues a reserved word, an idle engine, and several engines (R171, R177, R205). -/

namespace Sys2Proof.Machine

section faultTable
variable {p : Phase} {i : Instr} {d : Except Reserved Instr}

theorem faultTable_eq_notInitialized :
    faultTable p (.ok i) = some .notInitialized ↔ p = .uninit ∧ ((∃ b, i = .update b) ∨ i = .final) := by
  cases p <;> cases i <;> simp [faultTable]

theorem faultTable_eq_alreadyFinalized :
    faultTable p (.ok i) = some .alreadyFinalized ↔ p = .done ∧ ((∃ b, i = .update b) ∨ i = .final) := by
  cases p <;> cases i <;> simp [faultTable]

theorem faultTable_eq_reinitActive : faultTable p (.ok i) = some .reinitActive ↔ p = .active ∧ i = .init := by
  cases p <;> cases i <;> simp [faultTable]

theorem faultTable_eq_digestNotReady :
    faultTable p (.ok i) = some .digestNotReady ↔ (p = .uninit ∨ p = .active) ∧ ∃ x, i = .rdig x := by
  cases p <;> cases i <;> simp [faultTable]

/-- A legal command never raises ILLEGAL_CMD (R162, R164). -/
theorem faultTable_ok_ne_illegalCmd : faultTable p (.ok i) ≠ some .illegalCmd := by
  cases p <;> cases i <;> simp [faultTable]

/-- Outside FAULT the cells that lead to FAULT are those that name a fault (R19). -/
theorem phaseTable_eq_fault_iff (hp : p ≠ .fault) : phaseTable p d = .fault ↔ ∃ c, faultTable p d = some c := by
  refine ⟨fun entry => ?_, fun ⟨c, hc⟩ => phaseTable_of_fault hc⟩
  obtain cell | ⟨hf, -⟩ | ⟨i, rfl, run⟩ := table_cell p d
  · exact cell
  · exact absurd hf hp
  · cases p <;> cases i <;> simp_all [permits, phaseTable]

end faultTable

section faultEntry
variable {s : State} {d : Except Reserved Instr} {c : Cause}

/-- Outside FAULT a word raises exactly the fault of its cell, if its cell names one (R160, R166). -/
theorem cellEffect_raises_iff (hp : s.phase ≠ .fault) :
    (cellEffect d s).phase = .fault ∧ (cellEffect d s).cause = c ↔ faultTable s.phase d = some c := by
  rw [cellEffect_phase, phaseTable_eq_fault_iff hp, cellEffect_cause]
  cases faultTable s.phase d <;> simp

/-- A word that enters FAULT records the fault its cell names. -/
theorem faultTable_of_entry (hp : s.phase ≠ .fault) (entry : (cellEffect d s).phase = .fault) :
    faultTable s.phase d = some (cellEffect d s).cause :=
  (cellEffect_raises_iff hp).1 ⟨entry, rfl⟩

theorem causeCode_range (hc : c ≠ .none) : 1 ≤ (causeCode c).toNat ∧ (causeCode c).toNat ≤ 5 := by
  cases c with
  | none => exact absurd rfl hc
  | _ => decide

end faultEntry

/-- Settles O57: FaultInv is an invariant of every effect, and each cause but none has a code from 1 to 5. -/
theorem stepKeepsFaultInvariant : Obligations.StepKeepsFaultInvariant := by
  intro s t inv next
  have inv : FaultInv t := engineInvariant_faultInv.step inv next
  exact ⟨inv, fun hp => causeCode_range (inv.2 hp)⟩

/-- Settles O52: a cell that names a fault raises it, and `raise` is the state the statement writes out. -/
theorem faultEntryIsPrecise : Obligations.FaultEntryIsPrecise := by
  intro w s t hp next entry
  rw [acceptWord_eq] at next
  cases next
  have named := faultTable_of_entry hp entry
  exact ⟨named, cellEffect_faults named⟩

/-- Settles O53: `0x0500` is the one word that decodes to RSTAT. -/
theorem faultHaltsEngine : Obligations.FaultHaltsEngine := by
  intro w s hp
  by_cases rstat : w = 0x0500
  · have hd : decode w = .ok .rstat := rstat ▸ decode_encode .rstat
    rw [if_pos rstat, acceptWord, hd]
    exact exec_rstat s
  · rw [if_neg rstat]
    exact acceptWord_ignored hp fun hd => rstat (encode_of_decode hd).symm

/-- A reserved word outside FAULT, by the phase and the cause it leaves (R162). -/
theorem acceptWord_raises_illegalCmd {w : CmdWord} {s : State} (reserved : ∀ i, decode w ≠ .ok i) (hp : s.phase ≠ .fault) :
    ∃ t, acceptWord w s = .next t ∧ t.phase = .fault ∧ t.cause = .illegalCmd :=
  ⟨_, acceptWord_reserved reserved hp, raise_phase _ s, raise_cause _ s⟩

/-- Settles O54: a legal command's sequence fault is the one its cell of R19's table names; the two examples are reserved words. -/
theorem faultPriority : Obligations.FaultPriority := by
  refine ⟨fun w s hp => ⟨_, acceptWord_eq w s, cellEffect_from_fault _ hp⟩,
    fun w s hp reserved => acceptWord_raises_illegalCmd reserved hp,
    fun w i s hp hd => ⟨_, acceptWord_eq w s, ?_⟩, fun s hp => ?_, fun s hp => ?_⟩
  · rw [hd]
    simp only [cellEffect_raises_iff hp]
    refine ⟨faultTable_eq_notInitialized, faultTable_eq_alreadyFinalized, faultTable_eq_reinitActive,
      faultTable_eq_digestNotReady, ?_⟩
    rintro ⟨entry, illegal | none⟩
    · exact faultTable_ok_ne_illegalCmd ((cellEffect_raises_iff hp).1 ⟨entry, illegal⟩)
    · exact faultTable_ne_none ((cellEffect_raises_iff hp).1 ⟨entry, none⟩) rfl
  · exact acceptWord_raises_illegalCmd (reserved_iff.2 (by decide)) (by simp [hp])
  · exact acceptWord_raises_illegalCmd (reserved_iff.2 (by decide)) (by simp [hp])

/-- Settles O55: both words stand in one cell of R19's table, and the cell gives the fault. -/
theorem faultDependsOnWordAndPhaseOnly : Obligations.FaultDependsOnWordAndPhaseOnly := by
  intro w s u t v same hp nextS nextU
  rw [acceptWord_eq] at nextS nextU
  cases nextS
  cases nextU
  have entries : (cellEffect (decode w) s).phase = .fault ↔ (cellEffect (decode w) u).phase = .fault := by
    rw [cellEffect_phase, cellEffect_phase, same]
  refine ⟨entries, fun entry => ?_⟩
  have named := faultTable_of_entry hp entry
  have named' := faultTable_of_entry (same ▸ hp) (entries.1 entry)
  rw [← same, named] at named'
  exact ⟨Option.some.inj named', faultTable_ne_none named⟩

section steps
variable {s : State}

/-- A step whose move issues a word is the port's answer to it (R60). -/
theorem step_of_issue {w : CmdWord} {rest : List HostMove} (move : s.host = .issue w :: rest) :
    step s = acceptWord w { s with host := rest } := by
  rw [step, takeMove, move]
  rfl

/-- With no move of the host a step changes nothing (R205). -/
theorem step_of_idle (idle : s.host = []) : step s = .next s := by
  rw [step, takeMove, idle]

theorem stepEngine_of_step {n : Nat} {es : Vector State n} {k : Fin n} {t : State} (next : step es[k.val] = .next t) :
    stepEngine es k = .next (es.set k.val t) := by
  rw [stepEngine, next]

end steps

/-- Settles O10: the port's answer to the word, with the move taken off. -/
theorem stepOnReservedWord : Obligations.StepOnReservedWord := by
  intro s w rest move reserved
  rw [step_of_issue move]
  exact ⟨fun hp => acceptWord_reserved reserved hp, fun hp => acceptWord_ignored hp (reserved .rstat)⟩

/-- Settles O12, by induction on the number of steps. -/
theorem idleEngineHoldsState : Obligations.IdleEngineHoldsState := by
  intro s n idle
  induction n with
  | zero => rfl
  | succ n ih => exact (run_succ_of_step (step_of_idle idle) n).trans ih

/-- Settles O15: the step's state is set at index `k` alone. -/
theorem enginesAreIndependent : Obligations.EnginesAreIndependent := by
  intro n es k
  obtain ⟨t, next⟩ := step_completes es[k.val]
  refine ⟨es.set k.val t, stepEngine_of_step next, ?_, fun j other => ?_⟩
  · rw [next, Vector.getElem_set_self]
  · exact Vector.getElem_set_ne k.isLt j.isLt (Fin.val_ne_of_ne other.symm)

end Sys2Proof.Machine
end

section
/-! PROOFS. A step whose move is the reset event (R190, R205). -/

namespace Sys2Proof.Machine

/-- A step whose move is reset is the reset event, with the move taken off (R205). -/
theorem step_of_reset {s : State} {rest : List HostMove} (move : s.host = .reset :: rest) :
    step s = .next (resetEvent { s with host := rest }) := by
  rw [step, takeMove, move]
  rfl

/-- Settles O11: the reset event's fields, read off one by one. -/
theorem stepAppliesReset : Obligations.StepAppliesReset := by
  intro s rest move
  exact ⟨_, step_of_reset move, resetEvent_phase _, resetEvent_cause _, resetEvent_resp _, resetEvent_host _⟩

end Sys2Proof.Machine
end
